-- ==== Sys2Proof/Word.lean ====
section
/-! DEFINITION. The block's words: the byte (R9, R36) and the request beat, the one unit in which operations
reach the block (R40, R70, R71). -/

namespace Sys2Proof

/-- An opcode, a parameter, a frame byte, a checksum: `BYTE_W = 8` bits, unsigned, bit 0 least significant
(R6, R9, R36). -/
abbrev Byte := BitVec 8

/-- One beat of the request channel: the header beat of R70 or a payload beat of R71. -/
structure ReqBeat where
  /-- `req_op`, read on a header beat only (R71, R75). -/
  op : BitVec 3
  /-- `req_data`: operand A on a header beat, the next payload byte otherwise. -/
  data : Byte
  /-- `req_last`: 1 on the last beat of the request. -/
  last : Bool
deriving DecidableEq, Repr

end Sys2Proof
end

