-- ==== Sys2Proof/Config.lean ====
section
/-! DEFINITION. What an implementation fixes (R7) and the free values of the model (R204, U10). The constants
that R6 fixes for every implementation stand in Sys2Proof/Machine/Constants.lean. -/

namespace Sys2Proof

/-- The parameters the source leaves open (R7, D14, D15), fixed when an instance is built (R18). -/
structure Config where
  /-- `N_MOTORS`: a motor index `m` is valid exactly when `m < nMotors` (R146). Legal range 1 to 6. -/
  nMotors : Nat := 3
  /-- `MAX_DECODE_LEN`: none, or a number of at least 7 (R7, R122). -/
  maxDecodeLen : Option Nat := none
deriving DecidableEq, Repr

/-- FREE VALUE (R204, U10; log 4). `Config.reqStall k` is the number of edges for which the block holds
`req_ready` low after edge `k`. Nothing constrains it; it is finite (R47, R205). -/
opaque Config.reqStall : Nat → Nat

/-- FREE VALUE (R204, U10; log 4). `Config.rspStall k` is the number of edges for which the block holds
`rsp_valid` low after edge `k`, once it has a beat to send; edges of `Config.holdBack` are not counted. Nothing
constrains it; it is finite (R205). -/
opaque Config.rspStall : Nat → Nat

/-- FREE VALUE (R46, R205; log 4). Whether, at edge `k`, the block goes on holding back a response beat that is due
because request beats of the transaction are still to come. R205 promises the response only after the last request
beat, and R46 leaves the interleaving open, so the block may do so until that beat has moved. -/
opaque Config.holdBack : Nat → Bool

/-- FREE VALUE (R47; log 4). Whether, at edge `k`, the block holds `req_ready` low because the host has not taken
the response beat it is offered. -/
opaque Config.waitDrain : Nat → Bool

/-- FREE VALUE (R204; log 4). Whether, at edge `k`, the block offers a response beat in the very cycle its
cause arrives. -/
opaque Config.sameCycle : Nat → Bool

end Sys2Proof
end

