-- ==== Sys2Proof/Syntax.lean ====
section
/-! DEFINITION. The operations of the block: one constructor per row of spec/opcode_table.json (R75). -/

namespace Sys2Proof

/-- The eight operations (R75, R118): the block's whole operation set. -/
inductive Instr where
  /-- ENCODE, `req_op = 0` (R110): opcode `o`, parameters `ps`. -/
  | encode (o : Byte) (ps : List Byte)
  /-- PING, `req_op = 1` (R141). -/
  | ping
  /-- STOP_ALL, `req_op = 2` (R142). -/
  | stopAll
  /-- BEEP, `req_op = 3` (R143). -/
  | beep
  /-- MOTOR_ON, `req_op = 4` (R144): motor index `m`. -/
  | motorOn (m : Byte)
  /-- MOTOR_OFF, `req_op = 5` (R145): motor index `m`. -/
  | motorOff (m : Byte)
  /-- DECODE, `req_op = 6` (R120): the frame `f`. -/
  | decode (f : List Byte)
  /-- VALIDATE, `req_op = 7` (R125): the frame `f`. -/
  | validate (f : List Byte)
deriving DecidableEq, Repr

end Sys2Proof
end

