-- ==== Sys2Proof/WellFormed.lean ====
section
/-! DEFINITION. The checks on what an instance is built with and is given. An opcode, a parameter, a frame byte
or a motor index outside 0 to 255 cannot be written (R79, R113), so no check is needed for it. -/

namespace Sys2Proof

/-- The legal ranges of R7: `N_MOTORS` from 1 to 6, `MAX_DECODE_LEN` none or at least 7. -/
def Config.wf (c : Config) : Bool :=
  decide (1 ≤ c.nMotors) && decide (c.nMotors ≤ 6) &&
    match c.maxDecodeLen with
    | none => true
    | some n => decide (7 ≤ n)

/-- Whether DECODE of a frame of `len` bytes is inside the contract of an instance (R7, R202, U4). -/
def Config.fits (c : Config) (len : Nat) : Bool :=
  match c.maxDecodeLen with
  | none => true
  | some n => decide (len ≤ n)

/-- The precondition the spec puts on an operation given at the ports: only DECODE has one (U4). -/
def Instr.wf (c : Config) : Instr → Bool
  | .encode _ _ => true
  | .ping => true
  | .stopAll => true
  | .beep => true
  | .motorOn _ => true
  | .motorOff _ => true
  | .decode f => c.fits f.length
  | .validate _ => true

/-- A whole request (R40): one header beat and payload beats, with `req_last = 1` on the last beat and on no
other. -/
def wholeRequest : List ReqBeat → Bool
  | [] => false
  | [b] => b.last
  | b :: c :: r => !b.last && wholeRequest (c :: r)

end Sys2Proof
end

