-- ==== Sys2Proof/Decode.lean ====
section
/-! DEFINITION. Requests and operations (R70 to R75): the decoder, total on any list of beats and rejecting by
name; after it the encoder, written from the same tables; then the reading of a word of spec/opcode_table.json. -/

namespace Sys2Proof

/-- The operation that `req_op` of a header beat selects (R75). -/
inductive OpSel where
  | encode | ping | stopAll | beep | motorOn | motorOff | decode | validate
deriving DecidableEq, Repr

/-- The operation-select codes (R75). All eight are used; none is reserved, so 7 is all that is left at the end. -/
def OpSel.ofCode (c : BitVec 3) : OpSel :=
  match c.toNat with
  | 0 => .encode
  | 1 => .ping
  | 2 => .stopAll
  | 3 => .beep
  | 4 => .motorOn
  | 5 => .motorOff
  | 6 => .decode
  | _ => .validate

/-- Why a list of beats is no request (R40). -/
inductive DecodeError where
  /-- There is no beat, so no header. -/
  | noBeat
  /-- No beat has `req_last = 1`: the host has not finished the request (R176). -/
  | unfinished
  /-- A beat follows the one with `req_last = 1`: it belongs to the next request. -/
  | beatAfterLast
deriving DecidableEq, Repr

/-- The form of a request, or why it has none (R40). -/
def requestForm : List ReqBeat → Except DecodeError Unit
  | [] => .error .noBeat
  | [b] => if b.last then .ok () else .error .unfinished
  | b :: c :: r => if b.last then .error .beatAfterLast else requestForm (c :: r)

/-- The operation a request asks for, from the header's `req_op` and `req_data` and the payload bytes (R74).
`req_data` of a header without operand, and payload beats of an operation that takes none, are ignored. -/
def readRequest (op : OpSel) (operand : Byte) (payload : List Byte) : Instr :=
  match op with
  | .encode => .encode operand payload
  | .ping => .ping
  | .stopAll => .stopAll
  | .beep => .beep
  | .motorOn => .motorOn operand
  | .motorOff => .motorOff operand
  | .decode => .decode payload
  | .validate => .validate payload

/-- The decoder: the operation that one whole request asks for (R40, R74, R75). `req_op` of payload beats is
ignored (R71). -/
def decodeRequest : List ReqBeat → Except DecodeError Instr
  | [] => .error .noBeat
  | h :: ps =>
    match requestForm (h :: ps) with
    | .error e => .error e
    | .ok _ => .ok (readRequest (OpSel.ofCode h.op) h.data (ps.map ReqBeat.data))

/-! ## The encoder -/

/-- The operation-select codes written out (R75). -/
def OpSel.code : OpSel → BitVec 3
  | .encode => 0b000#3
  | .ping => 0b001#3
  | .stopAll => 0b010#3
  | .beep => 0b011#3
  | .motorOn => 0b100#3
  | .motorOff => 0b101#3
  | .decode => 0b110#3
  | .validate => 0b111#3

/-- Payload beats, one byte each, `req_last = 1` on the final one (R71). `req_op` is 0 there: ignored
(DESIGN CHOICE, log 8). -/
def payloadBeats : List Byte → List ReqBeat
  | [] => []
  | [b] => [⟨0#3, b, true⟩]
  | b :: c :: r => ⟨0#3, b, false⟩ :: payloadBeats (c :: r)

/-- The request `H(op, operand, last)` followed by `P(payload, last)` (R74, R81). -/
def request (op : OpSel) (operand : Byte) (payload : List Byte) : List ReqBeat :=
  ⟨op.code, operand, payload.isEmpty⟩ :: payloadBeats payload

/-- The encoder: the request of an operation (R74). Where `req_data` is ignored it is `0x00`, as in the
examples of R81 (DESIGN CHOICE, log 8). -/
def encodeRequest : Instr → List ReqBeat
  | .encode o ps => request .encode o ps
  | .ping => request .ping 0x00#8 []
  | .stopAll => request .stopAll 0x00#8 []
  | .beep => request .beep 0x00#8 []
  | .motorOn m => request .motorOn m []
  | .motorOff m => request .motorOff m []
  | .decode f => request .decode 0x00#8 f
  | .validate f => request .validate 0x00#8 f

/-! ## The words of spec/opcode_table.json -/

/-- The request a word of the table stands for: bits 2 to 0 are `req_op` (the only bits the table gives), bits 10
to 3 `req_data`, and the header is the whole request (DESIGN CHOICE, log 9). -/
def tableRequest (nbits w : Nat) : List ReqBeat :=
  let v := w % 2 ^ nbits
  [⟨BitVec.ofNat 3 v, BitVec.ofNat 8 (v / 8), true⟩]

/-- The instruction the decoder reads from a word of the table. -/
def decodeTableWord (nbits w : Nat) : Option Instr :=
  match decodeRequest (tableRequest nbits w) with
  | .ok i => some i
  | .error _ => none

end Sys2Proof
end

