-- ==== Sys2Proof/Machine/Constants.lean ====
section
/-! DEFINITION. The constants the source fixes (R6), each named once so that a reader can change one in one
place (N14 of 91_not_in_source.md). -/

namespace Sys2Proof.Machine

/-- `PREAMBLE`, byte 0 (R6, R62). -/
def preamble0 : Byte := 0x55#8
/-- `PREAMBLE`, byte 1 (R6, R62). -/
def preamble1 : Byte := 0xFF#8
/-- `PREAMBLE`, byte 2 (R6, R62). -/
def preamble2 : Byte := 0x00#8
/-- `TOGGLE_MASK`, bit 3 (R6, R61). -/
def toggleMask : Byte := 0x08#8
/-- `CPL_MASK` (R6, R90). -/
def cplMask : Byte := 0xFF#8
/-- `SUM_MOD` (R6, R65). -/
def sumMod : Nat := 256
/-- `MIN_FRAME` (R6, R99). -/
def minFrame : Nat := 7
/-- `PRE_LEN` (R6): the index of the first pair (R35). -/
def preLen : Nat := 3
/-- `OP_PING` (R6, R141). -/
def opPing : Byte := 0x10#8
/-- `OP_STOP_ALL` (R6, R142). -/
def opStopAll : Byte := 0x50#8
/-- `OP_BEEP` (R6, R143). -/
def opBeep : Byte := 0x51#8
/-- `BEEP_ARG` (R6, R143). -/
def beepArg : Byte := 0x01#8
/-- `OP_MOTOR` (R6, R144, R145). -/
def opMotor : Byte := 0x21#8
/-- `FLAG_ON` (R6, R68, R144). -/
def flagOn : Byte := 0x80#8
/-- `FLAG_OFF` (R6, R68, R145). -/
def flagOff : Byte := 0x40#8

end Sys2Proof.Machine
end

