-- ==== Sys2Proof/Machine/Formats.lean ====
section
/-! DEFINITION. The formats of the block's results: Command (R60), DecodedFrame (R66), ValidationResult (R67),
the error kinds (R160), kind tags (R78), status codes (R77) and response beats (R72, R73). -/

namespace Sys2Proof.Machine

/-- A Command (R60): the opcode before the toggle is applied, and the parameters in order. -/
structure Command where
  opcode : Byte
  params : List Byte
deriving DecidableEq, Repr

/-- The four error kinds (R160). None carries a value (R67). -/
inductive ErrorKind where
  /-- Frame length below 7 or even (R161). -/
  | malformedFrame
  /-- Some pair from index 3 on is no complement pair (R162). -/
  | complementMismatch
  /-- All pairs are good and the checksum byte is not the sum (R163). -/
  | checksumMismatch
  /-- Motor index not below `N_MOTORS` (R164). -/
  | invalidMotorIndex
deriving DecidableEq, Repr

/-- Status code 0, OK (R77). -/
def statusOk : BitVec 3 := 0#3

/-- The status codes of the errors (R77). Codes 5 to 7 are never produced. -/
def ErrorKind.code : ErrorKind → BitVec 3
  | .malformedFrame => 1#3
  | .complementMismatch => 2#3
  | .checksumMismatch => 3#3
  | .invalidMotorIndex => 4#3

/-- The kind tags (R78). -/
inductive Kind where
  | preamble | opcode | opcodeC | param | paramC | checksum | checksumC | trailer
deriving DecidableEq, Repr

/-- The codes of the kind tags (R78). -/
def Kind.code : Kind → BitVec 3
  | .preamble => 0#3
  | .opcode => 1#3
  | .opcodeC => 2#3
  | .param => 3#3
  | .paramC => 4#3
  | .checksum => 5#3
  | .checksumC => 6#3
  | .trailer => 7#3

/-- The tags PG.LOAD can be given: those of the value positions (R91). -/
inductive ValueKind where
  | opcode | param | checksum
deriving DecidableEq, Repr

/-- The tag of the value position (R91). -/
def ValueKind.tag : ValueKind → Kind
  | .opcode => .opcode
  | .param => .param
  | .checksum => .checksum

/-- The complement tag that goes with a value tag (R92). -/
def ValueKind.complementTag : ValueKind → Kind
  | .opcode => .opcodeC
  | .param => .paramC
  | .checksum => .checksumC

/-- One beat of the response channel, the signals of R42: a data beat (R72) or the trailer (R73). -/
structure RspBeat where
  /-- `rsp_data`. -/
  data : Byte
  /-- `rsp_kind`. -/
  kind : BitVec 3
  /-- `rsp_last`. -/
  last : Bool
  /-- `rsp_status`. -/
  status : BitVec 3
deriving DecidableEq, Repr

/-- A response data beat (R72). -/
def RspBeat.dataBeat (b : Byte) (k : Kind) : RspBeat := ⟨b, k.code, false, 0#3⟩

/-- The response trailer beat (R73). -/
def RspBeat.trailer (status : BitVec 3) : RspBeat := ⟨0x00#8, Kind.trailer.code, true, status⟩

/-- The DecodedFrame, the "diagnostic view" of a frame (R66). -/
structure DecodedFrame where
  preamble : Byte × Byte × Byte
  opcode : Byte
  opcodeComplement : Byte
  parameters : List (Byte × Byte)
  checksum : Byte
  checksumComplement : Byte
deriving DecidableEq, Repr

/-- Pairs laid end to end, the value before its complement (R33). -/
def flattenPairs : List (Byte × Byte) → List Byte
  | [] => []
  | p :: r => p.1 :: p.2 :: flattenPairs r

/-- The fields of a DecodedFrame in the order of R66's table, as bytes (R124). -/
def DecodedFrame.bytes (d : DecodedFrame) : List Byte :=
  [d.preamble.1, d.preamble.2.1, d.preamble.2.2, d.opcode, d.opcodeComplement] ++
    flattenPairs d.parameters ++ [d.checksum, d.checksumComplement]

/-- The ValidationResult (R67). -/
inductive ValidationResult where
  | valid | malformedFrame | complementMismatch | checksumMismatch
deriving DecidableEq, Repr

/-- The error a ValidationResult is, if it is one (R125). -/
def ValidationResult.toError : ValidationResult → Option ErrorKind
  | .valid => none
  | .malformedFrame => some .malformedFrame
  | .complementMismatch => some .complementMismatch
  | .checksumMismatch => some .checksumMismatch

end Sys2Proof.Machine
end

