-- ==== Sys2Proof/Machine/State.lean ====
section
/-! DEFINITION. The state of one Codec instance with what the host does next and what it has received, the
reasons a step can stop, and the state after reset. -/

namespace Sys2Proof.Machine

/-- The input pins of R42 at one rising edge of `clk`. -/
structure Pins where
  /-- `rst`. -/
  rst : Bool
  /-- `req_valid`. -/
  reqValid : Bool
  /-- `req_op`, `req_data`, `req_last`. -/
  req : ReqBeat
  /-- `rsp_ready`. -/
  rspReady : Bool
deriving DecidableEq, Repr

/-- One thing the host does next (log 3). -/
inductive HostInput where
  /-- The host offers a request beat, keeps it steady until it has moved, and shows `rsp_ready = 1` meanwhile:
  a host that keeps its duties (R44, R47). -/
  | offer (b : ReqBeat)
  /-- One rising edge of `clk` with the pins as given, whatever they are (R42, R43). -/
  | edge (p : Pins)
deriving DecidableEq, Repr

/-- Why the machine stops with a fault: a precondition of a primitive that the spec says always holds. SAFE: the
model stops where the spec gives no effect, and no reachable state comes there (log 6). -/
inductive Fault where
  /-- Raised by the read primitive `f[i]` for an index outside the frame: R31 defines it for `0 <= i < len(f)`
  only. Safe. -/
  | frameIndexOutOfRange
  /-- Raised by PG.LOAD when a complement is pending: R91 has the precondition `pg_phase = 0`. Safe. -/
  | pairPending
  /-- Raised by PG.COMP when no complement is pending: R92 has the precondition `pg_phase = 1`. Safe. -/
  | noPairPending
deriving DecidableEq, Repr

/-- Why the model gives no meaning. -/
inductive Refusal where
  /-- Raised by an arm of exec whose instruction has no meaning yet; none is left. Safe. -/
  | notModelled (mnemonic : String)
  /-- Raised by a step that gives DECODE a frame longer than `MAX_DECODE_LEN` on an instance where that parameter
  is set: not defined (R202, U4: `refuse`). Safe. -/
  | decodeBeyondMaxLen
deriving DecidableEq, Repr

/-- The state of one Codec instance, and the host's side of its ports. -/
structure State where
  /-- The parameters the instance is built with (R7, R18); no step changes them. -/
  cfg : Config
  /-- The toggle, the one bit of architectural state (R10). -/
  toggle : Bool
  /-- `acc`, the checksum accumulator (R13). -/
  acc : Byte
  /-- `pg_hold`, the byte whose complement is still to be emitted (R14). -/
  pgHold : Byte
  /-- `pg_phase`, 1 when a complement is pending (R14). -/
  pgPhase : Bool
  /-- `busy`, 1 from the header beat to the trailer beat (R15). -/
  busy : Bool
  /-- `op_lat`, the operation-select code of the transaction in flight (R15). -/
  opLat : BitVec 3
  /-- Request beats of the transaction in flight are still to come (R16, R45). -/
  reqOpen : Bool
  /-- The frame bytes that the DECODE or VALIDATE in flight has taken (R122, R128). -/
  frameBuf : List Byte
  /-- The error the catalog raised at the header beat, until its trailer is made (R148). -/
  errLat : Option ErrorKind
  /-- Response beats whose cause has arrived and that have not moved yet, the next one first (R41, R46). -/
  rspOut : List RspBeat
  /-- What the host does next, in order (R16); the host's side, not the block's. -/
  inputs : List HostInput
  /-- Every response beat that has moved, oldest first (R41); the host's side, not the block's. -/
  delivered : List RspBeat
  /-- Clock edges so far: the counter the free values are applied to (log 4). -/
  edges : Nat
  /-- Edges for which the block still holds `req_ready` low (R204, log 4). -/
  reqStall : Nat
  /-- Edges for which the block still holds `rsp_valid` low although a beat is there, the edges at which it waits for
  the rest of the request not counted (R46, R204, log 4). -/
  rspStall : Nat
deriving DecidableEq, Repr

/-- The state after reset (R22, R191), of an instance with the default parameters (R7). Nothing is offered and
nothing has been delivered; the three timing fields are DESIGN CHOICE 0 (log 4). -/
def State.reset : State where
  cfg := { nMotors := 3, maxDecodeLen := none }
  toggle := false
  acc := 0x00#8
  pgHold := 0x00#8
  pgPhase := false
  busy := false
  opLat := 0#3
  reqOpen := false
  frameBuf := []
  errLat := none
  rspOut := []
  inputs := []
  delivered := []
  edges := 0
  reqStall := 0
  rspStall := 0

end Sys2Proof.Machine
end

