-- ==== Sys2Proof/Machine/Operands.lean ====
section
/-! DEFINITION. The four assembled values of the block (R69), the catalog's lookup (R140), the frame's layout
(R62, R99, R100), and the closed formula of ENCODE (R110). -/

namespace Sys2Proof.Machine

/-- CPL, the complement of a byte (R90). -/
def cpl (b : Byte) : Byte := b ^^^ cplMask

/-- The transmitted opcode `T` (R61): bit 3 ORed in exactly when the toggle is set. -/
def transmitted (toggle : Bool) (o : Byte) : Byte := if toggle then o ||| toggleMask else o

/-- The motor parameter byte (R68): the flag and the bit of motor `m`. -/
def motorParam (flag m : Byte) : Byte := flag ||| (1#8 <<< m.toNat)

/-- The checksum `C` (R65): the integer sum of `T` and every parameter, modulo 256. -/
def checksumOf (t : Byte) (ps : List Byte) : Byte :=
  BitVec.ofNat 8 ((t.toNat + (ps.map BitVec.toNat).sum) % sumMod)

/-- The frame of R62 for a transmitted opcode and parameters, as one expression. -/
def frameLayout (t : Byte) (ps : List Byte) : List Byte :=
  [preamble0, preamble1, preamble2, t, cpl t] ++ flattenPairs (ps.map fun p => (p, cpl p)) ++
    [checksumOf t ps, cpl (checksumOf t ps)]

/-- The frame ENCODE returns, as a function of the toggle, the opcode and the parameters alone (R110, R114).
No operation calls it: they run the primitives of R111. It is what they are compared with (R112). -/
def encodedFrame (toggle : Bool) (o : Byte) (ps : List Byte) : List Byte :=
  frameLayout (transmitted toggle o) ps

/-- The named actions of the catalog (R140). The set is closed. -/
inductive Action where
  | ping | stopAll | beep | motorOn | motorOff
deriving DecidableEq, Repr

/-- CATALOG (R140): the Command of an action, or InvalidMotorIndex. The index is compared whole, as an
integer (R146), before any shift (R101). -/
def catalog (c : Config) (a : Action) (m : Byte) : Except ErrorKind Command :=
  match a with
  | .ping => .ok ⟨opPing, []⟩
  | .stopAll => .ok ⟨opStopAll, []⟩
  | .beep => .ok ⟨opBeep, [beepArg]⟩
  | .motorOn =>
    if c.nMotors ≤ m.toNat then .error .invalidMotorIndex else .ok ⟨opMotor, [motorParam flagOn m]⟩
  | .motorOff =>
    if c.nMotors ≤ m.toNat then .error .invalidMotorIndex else .ok ⟨opMotor, [motorParam flagOff m]⟩

/-- FD.CHECKLEN (R99): the number of parameter pairs of a frame of `len` bytes, or none when malformed. -/
def checkLen (len : Nat) : Option Nat :=
  if len < minFrame then none
  else if (len - minFrame) % 2 ≠ 0 then none
  else some ((len - minFrame) / 2)

/-- FD.CLASSIFY (R100): the field that index `i` of a frame of `len` bytes belongs to. -/
def classify (i len : Nat) : Kind :=
  if i ≤ 2 then .preamble
  else if i = 3 then .opcode
  else if i = 4 then .opcodeC
  else if i = len - 2 then .checksum
  else if i = len - 1 then .checksumC
  else if i % 2 = 1 then .param
  else .paramC

/-- The data beats of bytes that stand at index `i` on in a frame of `len` bytes, each tagged with its field
(R122). -/
def tagFrom (len : Nat) : Nat → List Byte → List RspBeat
  | _, [] => []
  | i, b :: r => RspBeat.dataBeat b (classify i len) :: tagFrom len (i + 1) r

/-- A whole frame as tagged data beats (R76, R122). -/
def taggedFrame (f : List Byte) : List RspBeat := tagFrom f.length 0 f

/-- The read primitive `f[i]` (R31), defined inside the frame only. -/
def readByte (f : List Byte) (i : Nat) : Except Fault Byte :=
  match f[i]? with
  | some b => .ok b
  | none => .error .frameIndexOutOfRange

/-- `n` pairs from index `i` on (R35): value `f[i]` and complement `f[i + 1]`, then `f[i + 2]` … -/
def readPairs (f : List Byte) : Nat → Nat → Except Fault (List (Byte × Byte))
  | _, 0 => .ok []
  | i, n + 1 => do
    let v ← readByte f i
    let c ← readByte f (i + 1)
    let rest ← readPairs f (i + 2) n
    pure ((v, c) :: rest)

end Sys2Proof.Machine
end

