-- ==== Sys2Proof/Machine/Flags.lean ====
section
/-! DEFINITION. The sub-block `toggle_bit_flipper` (TF): the toggle is the block's only status flag (R17). -/

namespace Sys2Proof.Machine

/-- TF.APPLY (R97): the transmitted opcode from the toggle as it was, and the toggle flipped, in one step. -/
def tfApply (o : Byte) (s : State) : Byte × State :=
  (transmitted s.toggle o, { s with toggle := !s.toggle })

/-- TF.PEEK (R98): the toggle, as the output `toggle_q` shows it. -/
def tfPeek (s : State) : Bool := s.toggle

end Sys2Proof.Machine
end

