-- ==== Sys2Proof/Machine/Ops.lean ====
section
/-! DEFINITION. The named operations the meanings and the ports share: emitting response beats, the sub-blocks
`bitwise_complement_pairgen` (PG) and `checksum_accumulator` (CA), raising an error (R165), and the opening and
closing of a transaction (R15, R45). -/

namespace Sys2Proof.Machine

/-! ## Response beats -/

/-- `emit(b, k)` (00_scope.md 5.3): append a data beat to the response. -/
def emit (b : Byte) (k : Kind) (s : State) : State :=
  { s with rspOut := s.rspOut ++ [RspBeat.dataBeat b k] }

/-- Append data beats that are already tagged (R122 step 3). -/
def emitAll (bs : List RspBeat) (s : State) : State := { s with rspOut := s.rspOut ++ bs }

/-- The trailer that ends a response (R73). -/
def sendTrailer (status : BitVec 3) (s : State) : State :=
  { s with rspOut := s.rspOut ++ [RspBeat.trailer status] }

/-- `raise <Error>` (R165), the block's one way to take an exception: the response is the trailer alone with the
error's code; no state changes, nothing is saved and control goes nowhere, so there is nothing to return from
(R168). -/
def raiseError (e : ErrorKind) (s : State) : State := sendTrailer e.code s

/-! ## bitwise_complement_pairgen -/

/-- PG.LOAD (R91). -/
def pgLoad (b : Byte) (k : ValueKind) (s : State) : Except Fault State :=
  if s.pgPhase then .error .pairPending
  else .ok { emit b k.tag s with pgHold := b, pgPhase := true }

/-- PG.COMP (R92); `k` is the tag PG.LOAD was given. -/
def pgComp (k : ValueKind) (s : State) : Except Fault State :=
  if s.pgPhase then .ok { emit (cpl s.pgHold) k.complementTag s with pgPhase := false }
  else .error .noPairPending

/-- PG.PAIR (R93): the byte and then its complement, with nothing between them. -/
def pgPair (b : Byte) (k : ValueKind) (s : State) : Except Fault State := do
  let s ← pgLoad b k s
  pgComp k s

/-! ## checksum_accumulator -/

/-- CA.CLEAR (R94). -/
def caClear (s : State) : State := { s with acc := 0x00#8 }

/-- CA.ADD (R95): 8-bit addition, the carry out of bit 7 dropped. -/
def caAdd (b : Byte) (s : State) : State := { s with acc := s.acc + b }

/-- CA.READ (R96). -/
def caRead (s : State) : Byte := s.acc

/-! ## Opening and closing a transaction -/

/-- The header beat has moved: `busy` is 1 and `op_lat` keeps the operation (R15, R115 step 2). -/
def openTransaction (op : BitVec 3) (s : State) : State :=
  { s with busy := true, opLat := op, reqOpen := true, frameBuf := [], errLat := none }

/-- The last request beat has been dealt with: no frame byte and no error is kept (R19, R165). -/
def closeRequest (s : State) : State :=
  { s with reqOpen := false, frameBuf := [], errLat := none }

/-- Every response beat left, the trailer included, has moved: the block is idle (R15, R41). -/
def deliverAll (s : State) : State :=
  { s with delivered := s.delivered ++ s.rspOut, rspOut := [], busy := false }

/-- One whole transaction (R46, R50): the request is taken, `body` performs the operation, and the whole response
is handed over. -/
def transact (op : OpSel) (body : State → Except Fault State) (s : State) :
    Host.Outcome State Fault Refusal :=
  match body (openTransaction op.code s) with
  | .ok t => .next (deliverAll (closeRequest t))
  | .error e => .fault e

end Sys2Proof.Machine
end

