-- ==== Sys2Proof/Machine/Encoder.lean ====
section
/-! DEFINITION. ENCODE as the sequence of primitives of R111, cut where the request beats fall (R115). -/

namespace Sys2Proof.Machine

/-- The three preamble bytes, which go through neither PG nor CA (R111). -/
def emitPreamble (s : State) : State :=
  emit preamble2 .preamble (emit preamble1 .preamble (emit preamble0 .preamble s))

/-- What depends on the opcode alone (R111, R115 steps 2 and 3): TF.APPLY, CA.CLEAR, CA.ADD(T), the preamble,
PG.PAIR(T, OPCODE). -/
def startFrame (o : Byte) (s : State) : Except Fault State :=
  let (t, s) := tfApply o s
  pgPair t .opcode (emitPreamble (caAdd t (caClear s)))

/-- One parameter (R111, R115 step 4): CA.ADD(p), PG.PAIR(p, PARAM). -/
def addParam (p : Byte) (s : State) : Except Fault State := pgPair p .param (caAdd p s)

/-- The loop over the parameters, in order (R111). -/
def addParams : List Byte → State → Except Fault State
  | [], s => .ok s
  | p :: ps, s => do
    let s ← addParam p s
    addParams ps s

/-- The checksum pair (R111, R115 step 5): PG.PAIR(CA.READ(), CHECKSUM). -/
def endFrame (s : State) : Except Fault State := pgPair (caRead s) .checksum s

/-- The end of every ENCODE-class response: the checksum pair and the trailer OK (R115 steps 5 and 6). -/
def finishFrame (s : State) : Except Fault State := do
  let s ← endFrame s
  pure (sendTrailer statusOk s)

/-- ENCODE of a Command with its whole response (R111, R76). -/
def runCommand (c : Command) (s : State) : Except Fault State := do
  let s ← startFrame c.opcode s
  let s ← addParams c.params s
  finishFrame s

/-- ENCODE (R110, R111, R113, R115). -/
def execEncode (o : Byte) (ps : List Byte) (s : State) : Host.Outcome State Fault Refusal :=
  transact .encode (runCommand ⟨o, ps⟩) s

end Sys2Proof.Machine
end

