-- ==== Sys2Proof/Machine/Catalog.lean ====
section
/-! DEFINITION. The five operations of the sub-block `command_catalog`: the lookup and then ENCODE (R140). -/

namespace Sys2Proof.Machine

/-- `<ACTION>(m)` (R140): the lookup may raise, and then nothing else happens (R147); else the Command is
encoded. -/
def runAction (a : Action) (m : Byte) (s : State) : Except Fault State :=
  match catalog s.cfg a m with
  | .error e => .ok (raiseError e s)
  | .ok c => runCommand c s

/-- PING (R141). It has no operand, and the lookup does not look at the one given here. -/
def execPing (s : State) : Host.Outcome State Fault Refusal :=
  transact .ping (runAction .ping 0x00#8) s

/-- STOP_ALL (R142). -/
def execStopAll (s : State) : Host.Outcome State Fault Refusal :=
  transact .stopAll (runAction .stopAll 0x00#8) s

/-- BEEP (R143). -/
def execBeep (s : State) : Host.Outcome State Fault Refusal :=
  transact .beep (runAction .beep 0x00#8) s

/-- MOTOR_ON (R144, R146, R147). -/
def execMotorOn (m : Byte) (s : State) : Host.Outcome State Fault Refusal :=
  transact .motorOn (runAction .motorOn m) s

/-- MOTOR_OFF (R145, R146, R147). -/
def execMotorOff (m : Byte) (s : State) : Host.Outcome State Fault Refusal :=
  transact .motorOff (runAction .motorOff m) s

end Sys2Proof.Machine
end

