-- ==== Sys2Proof/Machine/Decoder.lean ====
section
/-! DEFINITION. The two operations of the sub-block `frame_decoder`: DECODE (R120) and VALIDATE (R125). Neither
reads or writes the toggle. -/

namespace Sys2Proof.Machine

/-- DECODE as a function (R120): the length test, then the fields by position alone (R121). -/
def decodeFrame (f : List Byte) : Except Fault (Except ErrorKind DecodedFrame) :=
  match checkLen f.length with
  | none => .ok (.error .malformedFrame)
  | some n => do
    let p0 ← readByte f 0
    let p1 ← readByte f 1
    let p2 ← readByte f 2
    let o ← readByte f 3
    let oc ← readByte f 4
    let ps ← readPairs f 5 n
    let c ← readByte f (f.length - 2)
    let cc ← readByte f (f.length - 1)
    pure (.ok ⟨(p0, p1, p2), o, oc, ps, c, cc⟩)

/-- DECODE with its whole response (R122): the DecodedFrame serialised, each byte tagged with its field, and the
trailer OK; or MalformedFrame. -/
def runDecode (f : List Byte) (s : State) : Except Fault State := do
  match ← decodeFrame f with
  | .error e => pure (raiseError e s)
  | .ok d => pure (sendTrailer statusOk (emitAll (taggedFrame d.bytes) s))

/-- DECODE (R120 to R122). -/
def execDecode (f : List Byte) (s : State) : Host.Outcome State Fault Refusal :=
  transact .decode (runDecode f) s

/-- Whether some pair is no complement pair (R125). -/
def somePairBad (pairs : List (Byte × Byte)) : Bool := pairs.any fun p => p.2 != cpl p.1

/-- CA.ADD of `f[i]`, `f[i + 2]`, … , `n` of them (R125: `f[5 + 2k]` for `k` below `n`). -/
def addValues (f : List Byte) : Nat → Nat → State → Except Fault State
  | _, 0, s => .ok s
  | i, n + 1, s => do
    let v ← readByte f i
    addValues f (i + 2) n (caAdd v s)

/-- VALIDATE as the pseudocode of R125, the checks in the order of R126: length, all pairs from index 3, checksum.
The accumulator is touched only when the first two pass. -/
def validateFrame (f : List Byte) (s : State) : Except Fault (ValidationResult × State) :=
  match checkLen f.length with
  | none => .ok (.malformedFrame, s)
  | some n => do
    let pairs ← readPairs f preLen (n + 2)
    if somePairBad pairs then
      pure (.complementMismatch, s)
    else
      let t ← readByte f preLen
      let s ← addValues f 5 n (caAdd t (caClear s))
      let c ← readByte f (f.length - 2)
      if c != caRead s then pure (.checksumMismatch, s) else pure (.valid, s)

/-- VALIDATE with its whole response (R128): one trailer, no data beat. -/
def runValidate (f : List Byte) (s : State) : Except Fault State := do
  let (r, s) ← validateFrame f s
  match r.toError with
  | none => pure (sendTrailer statusOk s)
  | some e => pure (raiseError e s)

/-- VALIDATE (R125 to R128). -/
def execValidate (f : List Byte) (s : State) : Host.Outcome State Fault Refusal :=
  transact .validate (runValidate f) s

end Sys2Proof.Machine
end

