-- ==== Sys2Proof/Machine/Dispatch.lean ====
section
/-! DEFINITION. The dispatch on the operation (R75, R118): one arm per operation. -/

namespace Sys2Proof.Machine

def exec (i : Instr) (s : State) : Host.Outcome State Fault Refusal :=
  match i with
  | .encode o ps => Sys2Proof.Machine.execEncode o ps s
  | .ping => Sys2Proof.Machine.execPing s
  | .stopAll => Sys2Proof.Machine.execStopAll s
  | .beep => Sys2Proof.Machine.execBeep s
  | .motorOn m => Sys2Proof.Machine.execMotorOn m s
  | .motorOff m => Sys2Proof.Machine.execMotorOff m s
  | .decode f => Sys2Proof.Machine.execDecode f s
  | .validate f => Sys2Proof.Machine.execValidate f s

end Sys2Proof.Machine
end

