-- ==== Sys2Proof/Machine/Port.lean ====
section
/-! DEFINITION. The port level (R40 to R47, R115, R122, R128, R148, R190 to R192): what the block shows on its
output pins, what it does with each request beat as it moves, and one rising edge of `clk`. -/

namespace Sys2Proof.Machine

/-! ## Taking request beats (R44, R45) -/

/-- The block may take a request beat: a header while idle, or a payload beat of the request in flight (R45). -/
def canTake (s : State) : Bool := !s.busy || s.reqOpen

/-- The block shows a response beat that was due before this cycle: one is there and is not held back any more. -/
def showsDue (s : State) : Bool := !s.rspOut.isEmpty && s.rspStall == 0

/-- `req_ready` out of reset. It does not look at `req_valid` (R44). When it comes is a free value (log 4). The block
may wait for the host to take the response beat it shows, and for nothing else (R47): not for one it holds back
itself. -/
def reqReady (s : State) : Bool :=
  canTake s && (s.reqStall == 0 && !(showsDue s && Config.waitDrain s.edges))

/-! ## What a request beat does when it moves -/

/-- The header beat of a catalog operation (R148 steps 2 and 3): the error is latched, or the frame begins with
the catalog's parameters in place of payload beats. -/
def openAction (a : Action) (m : Byte) (s : State) : Except Fault State :=
  match catalog s.cfg a m with
  | .error e => .ok { s with errLat := some e }
  | .ok c => do
    let s ← startFrame c.opcode s
    addParams c.params s

/-- What each operation does at its header beat (R115 steps 2 and 3, R122, R128, R148). -/
def headerWork (b : ReqBeat) (s : State) : Except Fault State :=
  match OpSel.ofCode b.op with
  | .encode => startFrame b.data s
  | .ping => openAction .ping b.data s
  | .stopAll => openAction .stopAll b.data s
  | .beep => openAction .beep b.data s
  | .motorOn => openAction .motorOn b.data s
  | .motorOff => openAction .motorOff b.data s
  | .decode => .ok s
  | .validate => .ok s

/-- What the operation in flight does with a payload beat (R115 step 4, R122 step 2, R128 step 2, R148 step 4).
`req_op` of the beat is not looked at (R71). -/
def payloadWork (b : ReqBeat) (s : State) : Except Fault State :=
  match OpSel.ofCode s.opLat with
  | .encode => addParam b.data s
  | .ping => .ok s
  | .stopAll => .ok s
  | .beep => .ok s
  | .motorOn => .ok s
  | .motorOff => .ok s
  | .decode => .ok { s with frameBuf := s.frameBuf ++ [b.data] }
  | .validate => .ok { s with frameBuf := s.frameBuf ++ [b.data] }

/-- The end of an ENCODE-class response: the checksum pair and the trailer OK, or the trailer with the error that
the header beat latched (R115 steps 5 and 6, R148 steps 2 to 4). -/
def finishEncode (s : State) : Except Fault State :=
  match s.errLat with
  | some e => .ok (raiseError e s)
  | none => finishFrame s

/-- What the operation in flight does after the last request beat. -/
def finishWork (s : State) : Except Fault State :=
  match OpSel.ofCode s.opLat with
  | .encode => finishEncode s
  | .ping => finishEncode s
  | .stopAll => finishEncode s
  | .beep => finishEncode s
  | .motorOn => finishEncode s
  | .motorOff => finishEncode s
  | .decode => runDecode s.frameBuf s
  | .validate => runValidate s.frameBuf s

/-- After a beat with `req_last = 1` the request is complete (R40, R46). -/
def finishIfLast (last : Bool) (s : State) : Except Fault State :=
  if last then do
    let s ← finishWork s
    pure (closeRequest s)
  else .ok s

/-- A payload byte of DECODE beyond `MAX_DECODE_LEN` (R202, U4). -/
def beyondMaxLen (s : State) : Bool :=
  OpSel.ofCode s.opLat == .decode && !s.cfg.fits (s.frameBuf.length + 1)

/-- A fault of the shared operations as an outcome of the step. -/
def toOutcome : Except Fault State → Host.Outcome State Fault Refusal
  | .ok s => .next s
  | .error e => .fault e

/-- A request beat has moved: a header while idle, else a payload beat of the request in flight, by position alone
(R45, U2). -/
def takeBeat (b : ReqBeat) (s : State) : Host.Outcome State Fault Refusal :=
  if s.busy then
    if beyondMaxLen s then .refused .decodeBeyondMaxLen
    else toOutcome (do
      let s ← payloadWork b s
      finishIfLast b.last s)
  else toOutcome (do
    let s ← headerWork b (openTransaction b.op s)
    finishIfLast b.last s)

/-! ## One rising edge of `clk` -/

/-- The response beat at the front has moved to the host. With the trailer `busy` becomes 0 (R15, R41). -/
def giveBeat (s : State) : State :=
  match s.rspOut with
  | [] => s
  | b :: r => { s with rspOut := r, delivered := s.delivered ++ [b], busy := s.busy && !b.last }

/-- A request beat moves at this edge (R43). -/
def requestMoves (p : Pins) (s : State) : Bool := !p.rst && (p.reqValid && reqReady s)

/-- The request side of an edge: the beat that moves is dealt with. -/
def requestSide (p : Pins) (s : State) : Host.Outcome State Fault Refusal :=
  if requestMoves p s then takeBeat p.req s else .next s

/-- The beat at the front of the response after an outcome. -/
def frontBeat : Host.Outcome State Fault Refusal → Option RspBeat
  | .next s => s.rspOut.head?
  | .fault _ => none
  | .refused _ => none

/-- The response beat offered out of reset in a cycle with pins `p`, if one is. It does not look at `rsp_ready`
(R44). When a beat that is due comes is a free value, and once offered it stays until it has moved (R44, log 4). With
none due, a beat may come in the very cycle its cause arrives (R204, log 4), but no trailer in the cycle of the header:
`busy` becomes 1 at that edge (R15, R115, log 13). -/
def rspOffered (p : Pins) (s : State) : Option RspBeat :=
  if s.rspOut.isEmpty then
    if requestMoves p s && Config.sameCycle s.edges then
      (frontBeat (requestSide p s)).filter fun b => s.busy || !b.last
    else none
  else if s.rspStall = 0 then s.rspOut.head? else none

/-- A response beat moves at this edge (R43). -/
def responseMoves (p : Pins) (s : State) : Bool := !p.rst && (p.rspReady && (rspOffered p s).isSome)

/-! ## The output pins (R42) -/

/-- The output pins. `rsp` is `rsp_valid` with the payload of the beat offered, so that the payload has no value
while `rsp_valid = 0` (R191, U6). -/
structure PortOut where
  reqReady : Bool
  rsp : Option RspBeat
  toggleQ : Bool
deriving DecidableEq, Repr

/-- The output pins in a cycle with input pins `p` (R22, R42, R190). -/
def outputs (p : Pins) (s : State) : PortOut :=
  if p.rst then ⟨false, none, tfPeek s⟩ else ⟨reqReady s, rspOffered p s, tfPeek s⟩

/-! ## The edge -/

/-- The free timing after an edge (log 4). A side that is held back is held back one edge less. When that is over,
`req_ready` gets a new free delay (so that an idle block shows it again and again, R205); `rsp_valid` gets one for
each new beat, and stays once it is raised (R44). Whether a due beat is offered at all while request beats are still
to come is open (R46; R205 binds only after the last of them): DESIGN CHOICE (log 4), it is free, at each such edge
`Config.holdBack` may stop the count of `rsp_valid`. -/
def retime (p : Pins) (before after : State) : State :=
  { after with
    edges := before.edges + 1
    reqStall := if before.reqStall = 0 then Config.reqStall before.edges else before.reqStall - 1
    rspStall :=
      if responseMoves p before then Config.rspStall before.edges
      else if (rspOffered p before).isSome then 0
      else if before.rspOut.isEmpty then Config.rspStall before.edges
      else if after.reqOpen && Config.holdBack before.edges then before.rspStall
      else before.rspStall - 1 }

/-- A rising edge with `rst = 1` (R190 to R192): every state element takes its reset value, whatever it was and
whatever the other pins show; the transaction in flight is dropped. The parameters stay, and so does what the
host holds. -/
def resetEdge (s : State) : State :=
  { s with
    toggle := false
    acc := 0x00#8
    pgHold := 0x00#8
    pgPhase := false
    busy := false
    opLat := 0#3
    reqOpen := false
    frameBuf := []
    errLat := none
    rspOut := []
    edges := s.edges + 1
    reqStall := Config.reqStall s.edges
    rspStall := Config.rspStall s.edges }

/-- One rising edge of `clk` (R43). What moves on either channel is settled by the pins before the edge. -/
def clockEdge (p : Pins) (s : State) : Host.Outcome State Fault Refusal :=
  if p.rst then .next (resetEdge s)
  else
    match requestSide p s with
    | .next u => .next (retime p s (if responseMoves p s then giveBeat u else u))
    | .fault e => .fault e
    | .refused r => .refused r

/-- The pins of a host that offers a beat and takes response beats (R47). -/
def offering (b : ReqBeat) : Pins := ⟨false, true, b, true⟩

end Sys2Proof.Machine
end

