-- ==== Sys2Proof/Machine/Sequencer.lean ====
section
/-! DEFINITION. What the block does next: the order of the host's requests is all that stands where a processor
has a program counter (R16, R54). -/

namespace Sys2Proof.Machine

/-- The whole request at the front of what the host does next, and what comes after it; none where the host has
not offered a request through to its beat with `req_last = 1`. -/
def fetchRequest : List HostInput → Option (List ReqBeat × List HostInput)
  | .offer b :: rest =>
    if b.last then some ([b], rest)
    else
      match fetchRequest rest with
      | some (bs, after) => some (b :: bs, after)
      | none => none
  | _ => none

/-- The host offers one beat for one clock edge, and goes on offering it if it has not moved (R44, R47). -/
def offerEdge (b : ReqBeat) (rest : List HostInput) (s : State) : Host.Outcome State Fault Refusal :=
  if requestMoves (offering b) s then clockEdge (offering b) { s with inputs := rest }
  else clockEdge (offering b) s

/-- A whole request on an idle block: the operation is performed as one step (R46, R50), unless the host is
outside the contract (R202, U4). -/
def runRequest (bs : List ReqBeat) (b : ReqBeat) (rest : List HostInput) (s after : State) :
    Host.Outcome State Fault Refusal :=
  match decodeRequest bs with
  | .ok i => if i.wf s.cfg then exec i after else .refused .decodeBeyondMaxLen
  | .error _ => offerEdge b rest s

/-- One step, as the host's next input says. With no input left nothing happens: the block waits, and nothing
times out (R176, R202, U12). -/
def nextStep (s : State) : Host.Outcome State Fault Refusal :=
  match s.inputs with
  | [] => .next s
  | .edge p :: rest => clockEdge p { s with inputs := rest }
  | .offer b :: rest =>
    if s.busy then offerEdge b rest s
    else
      match fetchRequest s.inputs with
      | some (bs, after) => runRequest bs b rest s { s with inputs := after }
      | none => offerEdge b rest s

/-- A request put at the front of what the host does next, on a block that takes it (log 9). -/
def placeRequest (bs : List ReqBeat) (s : State) : State :=
  { s with inputs := bs.map .offer ++ s.inputs, busy := false }

end Sys2Proof.Machine
end

