-- ==== Sys2Proof/Machine/Step.lean ====
section
/-! DEFINITION. The step of the machine, and the placing of one word of the opcode table. -/

namespace Sys2Proof.Machine

/-- One step: one whole operation, or one rising edge of `clk` (R3). -/
def step (s : State) : Host.Outcome State Fault Refusal := nextStep s

/-- `s` with the request of a table word offered next, so that the very next step runs it (log 9). -/
def State.withFetchWord (s : State) (nbits w : Nat) : State := placeRequest (tableRequest nbits w) s

end Sys2Proof.Machine
end

