-- ==== Sys2Proof/Safety.lean ====
section
/-! DEFINITION. What a good state is, and the terms the statements use. -/

namespace Sys2Proof.Machine

/-- Between operations (R14, R15, R19, R165): no transaction, nothing kept, nothing left to send. -/
abbrev State.Idle (s : State) : Prop :=
  s.busy = false ∧ s.reqOpen = false ∧ s.pgPhase = false ∧ s.frameBuf = [] ∧ s.errLat = none ∧ s.rspOut = []

/-- A response beat as R72, R73 and R77 allow it: a data beat with one of the seven field tags, or a trailer with
one of the five status codes. -/
def RspBeat.legal (b : RspBeat) : Bool :=
  if b.last then b.data == 0x00#8 && b.kind == Kind.trailer.code && decide (b.status.toNat ≤ 4)
  else b.status == 0#3 && b.kind != Kind.trailer.code

/-- The end of a response: data beats and then exactly one trailer (R41). -/
def endsInTrailer : List RspBeat → Bool
  | [] => false
  | [b] => b.last
  | b :: c :: r => !b.last && endsInTrailer (c :: r)

/-- Whether the operation in flight collects its payload in `frameBuf` (R122, R128). -/
def State.collects (s : State) : Bool :=
  OpSel.ofCode s.opLat == .decode || OpSel.ofCode s.opLat == .validate

/-- The invariant of the block. The parameters are in range (R7); no complement is pending between steps (R14);
an idle block keeps and owes nothing (R19, R165); while request beats are to come no trailer has been made, and
nothing at all by an operation whose whole response depends on the last request beat (R46, R122, R128, R148);
the only error the header beat can leave behind is that of a motor operation (R148);
after the last request beat the response ends in its one trailer (R41); DECODE has kept no more than it may (R7);
and every beat sent or to be sent is one of R72 and R73. -/
abbrev State.Inv (s : State) : Prop :=
  s.cfg.wf = true ∧ s.pgPhase = false ∧
  (s.busy = false → s.Idle) ∧
  (s.reqOpen = true → ∀ b ∈ s.rspOut, b.last = false) ∧
  (s.reqOpen = true → s.collects = true ∨ s.errLat.isSome = true → s.rspOut = []) ∧
  (s.busy = true → s.reqOpen = false → endsInTrailer s.rspOut = true ∧ s.frameBuf = [] ∧ s.errLat = none) ∧
  (s.errLat = none ∨ s.errLat = some .invalidMotorIndex ∧
    (OpSel.ofCode s.opLat = .motorOn ∨ OpSel.ofCode s.opLat = .motorOff)) ∧
  (s.collects = false → s.frameBuf = []) ∧
  (OpSel.ofCode s.opLat = .decode → s.cfg.fits s.frameBuf.length = true) ∧
  (∀ b ∈ s.rspOut, b.legal = true) ∧
  (∀ b ∈ s.delivered, b.legal = true)

/-- The response of a frame and OK (R76): the frame's tagged beats and the trailer. -/
def frameResponse (f : List Byte) : List RspBeat := taggedFrame f ++ [RspBeat.trailer statusOk]

/-- Some pair of the frame, from index 3 on, is no complement pair (R64, R125). -/
def brokenPair (f : List Byte) : Prop :=
  ∃ i, 3 ≤ i ∧ i % 2 = 1 ∧ i + 1 < f.length ∧ f[i + 1]? ≠ (f[i]?).map cpl

/-- The checksum that a frame of `n` parameter pairs should carry: the sum modulo 256 of the bytes at the value
positions 3, 5, …, `L - 4` (R65, R125, R163). The default of `getD` is never read: the positions are inside. -/
def dueChecksum (f : List Byte) (n : Nat) : Byte :=
  checksumOf (f.getD 3 0) ((List.range n).map fun k => f.getD (5 + 2 * k) 0)

/-- Whether an operation flips the toggle (R11, R51): every ENCODE-class operation but a MOTOR_ON or MOTOR_OFF
with an invalid index. -/
def flipsToggle (c : Config) : Instr → Bool
  | .encode _ _ => true
  | .ping => true
  | .stopAll => true
  | .beep => true
  | .motorOn m => decide (m.toNat < c.nMotors)
  | .motorOff m => decide (m.toNat < c.nMotors)
  | .decode _ => false
  | .validate _ => false

/-- Outcomes one after the other: the second runs where the first answers a next state. -/
def andThen (o : Host.Outcome State Fault Refusal) (k : State → Host.Outcome State Fault Refusal) :
    Host.Outcome State Fault Refusal :=
  match o with
  | .next s => k s
  | .fault e => .fault e
  | .refused r => .refused r

/-- Operations performed one after the other (R50). -/
def execAll : List Instr → State → Host.Outcome State Fault Refusal
  | [], s => .next s
  | i :: is, s => andThen (exec i s) (execAll is)

/-- Clock edges one after the other, with the pins given for each. -/
def runEdges : List Pins → State → Host.Outcome State Fault Refusal
  | [], s => .next s
  | p :: ps, s => andThen (clockEdge p s) (runEdges ps)

/-- The request beats that move in a run of clock edges, in order (R43). -/
def movedBeats : List Pins → State → List ReqBeat
  | [], _ => []
  | p :: ps, s =>
    let here := if requestMoves p s then [p.req] else []
    match clockEdge p s with
    | .next t => here ++ movedBeats ps t
    | _ => here

/-- The first `n` edges of an endless drive of the input pins. -/
def firstEdges (drive : Nat → Pins) (n : Nat) : List Pins := (List.range n).map drive

/-- The request beats that have moved before edge `n` of a drive from `s`. -/
def movedBefore (drive : Nat → Pins) (s : State) (n : Nat) : List ReqBeat := movedBeats (firstEdges drive n) s

/-- A host that, from `s`, makes the request `bs` and keeps the duties of R47 and R202, at any pace: it may wait before
each beat it offers and before each beat it takes, and once as many beats as `bs` has have moved it may offer whatever
it likes, further requests among it. -/
structure KeepsDuties (drive : Nat → Pins) (bs : List ReqBeat) (s : State) : Prop where
  /-- `rst` stays 0. -/
  noReset : ∀ n, (drive n).rst = false
  /-- Until the whole request has moved, what the host offers is the next beat of it. -/
  inOrder : ∀ n, (movedBefore drive s n).length < bs.length → (drive n).reqValid = true →
    ∃ rest, bs = movedBefore drive s n ++ (drive n).req :: rest
  /-- The host offers every beat of the request in finite time (duty 1). -/
  offers : ∀ n, (movedBefore drive s n).length < bs.length → ∃ m, n ≤ m ∧ (drive m).reqValid = true
  /-- A beat of the request that is offered and does not move stays offered (duty 3; R44). -/
  holds : ∀ n, (movedBefore drive s n).length < bs.length → (drive n).reqValid = true →
    movedBefore drive s (n + 1) = movedBefore drive s n → (drive (n + 1)).reqValid = true
  /-- The host takes every response beat it is offered in finite time (duty 2). -/
  takes : ∀ n t, runEdges (firstEdges drive n) s = .next t → (outputs (drive n) t).rsp.isSome = true →
    ∃ m, n ≤ m ∧ (drive m).rspReady = true

/-- Request beats taken one after the other, with no time between them. -/
def takeBeats : List ReqBeat → State → Host.Outcome State Fault Refusal
  | [], s => .next s
  | b :: bs, s => andThen (takeBeat b s) (takeBeats bs)

/-- The transaction in flight brought to its end with the request beats that are left: all of them are taken and
then the whole response is handed over (R46, last paragraph). -/
def completeWith (bs : List ReqBeat) (s : State) : Host.Outcome State Fault Refusal :=
  andThen (takeBeats bs s) fun t => .next (deliverAll t)

/-- Two states that differ at most in the free timing of the ports (R204). -/
def sameButTiming (s t : State) : Prop :=
  { s with edges := t.edges, reqStall := t.reqStall, rspStall := t.rspStall } = t

/-- The pins of a host that keeps its duties (R47) and has the beats `bs` left to offer. -/
def dutifulPins : List ReqBeat → Pins
  | [] => ⟨false, false, ⟨0#3, 0x00#8, false⟩, true⟩
  | b :: _ => offering b

/-- `n` clock edges driven by a host that keeps its duties and has the beats `bs` left to offer. -/
def serve : Nat → List ReqBeat → State → Host.Outcome State Fault Refusal
  | 0, _, s => .next s
  | n + 1, bs, s =>
    andThen (clockEdge (dutifulPins bs) s)
      (serve n (if requestMoves (dutifulPins bs) s then bs.tail else bs))

end Sys2Proof.Machine
end

