-- ==== Sys2Proof/Certificates/Slice0/Obligations.lean ====
section
/-! DEFINITION. The statements for the provers. -/

open Sys2Proof Sys2Proof.Machine

/-! ## Primitives -/

/-- R90: CPL is `b ^ 0xFF`, with its laws, corner cases and example. -/
def Obligations.ComplementLaws : Prop :=
  (∀ b : Byte, cpl b = b ^^^ 0xFF#8 ∧ (cpl b).toNat = 255 - b.toNat ∧ cpl (cpl b) = b ∧ cpl b ≠ b ∧
    b.toNat + (cpl b).toNat = 255 ∧ b &&& cpl b = 0x00#8 ∧ b ||| cpl b = 0xFF#8) ∧
  cpl 0x00#8 = 0xFF#8 ∧ cpl 0xFF#8 = 0x00#8 ∧ cpl 0x55#8 = 0xAA#8 ∧ cpl 0x80#8 = 0x7F#8 ∧ cpl 0x51#8 = 0xAE#8

/-- R61: the transmitted opcode, and its bit `i` for each `i`, from the toggle as it was before the flip. -/
def Obligations.TransmittedOpcodeBitByBit : Prop :=
  ∀ (o : Byte) (s : State) (i : Nat), i < 8 →
    (tfApply o s).1 = (if s.toggle then o ||| 0x08#8 else o) ∧
    ((tfApply o s).1).getLsbD i = if i = 3 then o.getLsbD 3 || s.toggle else o.getLsbD i

/-- R97: TF.APPLY forms `T` from the toggle before the flip, flips the toggle and writes nothing else. -/
def Obligations.ToggleApplyReadsThenFlips : Prop :=
  ∀ (o : Byte) (s : State),
    tfApply o s = (if s.toggle then o ||| 0x08#8 else o, { s with toggle := !s.toggle }) ∧
    (o.getLsbD 3 = true → (tfApply o s).1 = o) ∧
    tfPeek (tfApply o s).2 = !tfPeek s

/-- R91 to R93: from `pg_phase = 0`, PG.PAIR appends the byte and its complement, in that order and tagged, leaves
`pg_phase = 0`, and writes nothing but `pg_hold` beside; from `pg_phase = 1`, where R91 gives PG.LOAD no meaning, it
stops (log 6). -/
def Obligations.PairGeneratorEmitsByteThenComplement : Prop :=
  ∀ (b : Byte) (k : ValueKind) (s : State),
    (s.pgPhase = false → pgPair b k s = .ok { s with
      rspOut := s.rspOut ++ [RspBeat.dataBeat b k.tag, RspBeat.dataBeat (b ^^^ 0xFF#8) k.complementTag]
      pgHold := b }) ∧
    (s.pgPhase = true → pgPair b k s = .error .pairPending)

/-- R94 to R96: after CA.CLEAR and CA.ADD of bytes, CA.READ gives their integer sum modulo 256, in whatever order
they were added, and nothing but `acc` has changed. -/
def Obligations.AccumulatorSumsModulo256 : Prop :=
  ∀ (bs bs' : List Byte) (s : State), bs.Perm bs' →
    bs.foldl (fun u b => caAdd b u) (caClear s) =
      { s with acc := BitVec.ofNat 8 ((bs'.map BitVec.toNat).sum % 256) } ∧
    caRead (bs.foldl (fun u b => caAdd b u) (caClear s)) = BitVec.ofNat 8 ((bs'.map BitVec.toNat).sum % 256)

/-- R99: FD.CHECKLEN. -/
def Obligations.LengthTestAcceptsOddFromSeven : Prop :=
  ∀ len : Nat,
    (checkLen len = none ↔ len < 7 ∨ (7 ≤ len ∧ (len - 7) % 2 ≠ 0)) ∧
    (∀ n, checkLen len = some n ↔ 7 ≤ len ∧ (len - 7) % 2 = 0 ∧ n = (len - 7) / 2)

/-- R78, R100: FD.CLASSIFY gives each index of a frame of length `7 + 2n` the field of R78's table. -/
def Obligations.ClassifyFollowsFieldTable : Prop :=
  ∀ n i : Nat, i < 7 + 2 * n →
    (i ≤ 2 → classify i (7 + 2 * n) = .preamble) ∧
    (i = 3 → classify i (7 + 2 * n) = .opcode) ∧
    (i = 4 → classify i (7 + 2 * n) = .opcodeC) ∧
    (5 ≤ i → i + 4 ≤ 7 + 2 * n → i % 2 = 1 → classify i (7 + 2 * n) = .param) ∧
    (6 ≤ i → i + 3 ≤ 7 + 2 * n → i % 2 = 0 → classify i (7 + 2 * n) = .paramC) ∧
    (i + 2 = 7 + 2 * n → classify i (7 + 2 * n) = .checksum) ∧
    (i + 1 = 7 + 2 * n → classify i (7 + 2 * n) = .checksumC)

/-- R68: the one parameter of the Command that the catalog gives for a valid motor index, bit by bit. -/
def Obligations.MotorParameterBitByBit : Prop :=
  ∀ (c : Config) (m : Byte), c.wf = true → m.toNat < c.nMotors →
    ∃ p q : Byte,
      catalog c .motorOn m = .ok ⟨0x21#8, [p]⟩ ∧ catalog c .motorOff m = .ok ⟨0x21#8, [q]⟩ ∧
      p = 0x80#8 ||| (1#8 <<< m.toNat) ∧ q = 0x40#8 ||| (1#8 <<< m.toNat) ∧
      ∀ i, i < 8 →
        p.getLsbD i = (decide (i = 7) || decide (i = m.toNat)) ∧
        q.getLsbD i = (decide (i = 6) || decide (i = m.toNat))

/-! ## ENCODE -/

/-- R112: ENCODE, performed as the primitives of R111, gives the frame of R110's formula, leaves the toggle
inverted, and changes nothing else but the datapath registers: the frame condition is the record update. -/
def Obligations.EncodePrimitivesGiveTheFormula : Prop :=
  ∀ (o : Byte) (ps : List Byte) (s : State), s.Idle →
    exec (.encode o ps) s = .next { s with
      toggle := !s.toggle
      acc := checksumOf (transmitted s.toggle o) ps
      pgHold := checksumOf (transmitted s.toggle o) ps
      opLat := 0#3
      delivered := s.delivered ++ frameResponse (encodedFrame s.toggle o ps) }

/-- R116: what every frame ENCODE returns obeys, items 1 to 6. -/
def Obligations.EveryEncodedFrameKeepsTheLaws : Prop :=
  ∀ (o : Byte) (ps : List Byte) (s : State), s.Idle →
    ∃ (t : State) (f : List Byte) (op : Byte),
      exec (.encode o ps) s = .next t ∧ t.delivered = s.delivered ++ frameResponse f ∧
      f.length = 7 + 2 * ps.length ∧
      f.take 3 = [0x55#8, 0xFF#8, 0x00#8] ∧
      (∀ i, 3 ≤ i → i % 2 = 1 → i + 1 < f.length → f[i + 1]? = (f[i]?).map fun b => b ^^^ 0xFF#8) ∧
      f[3]? = some op ∧
      f[f.length - 2]? = some (BitVec.ofNat 8 ((op.toNat + (ps.map BitVec.toNat).sum) % 256)) ∧
      (∀ k, k < ps.length → f[5 + 2 * k]? = ps[k]?) ∧
      op &&& 0xF7#8 = o &&& 0xF7#8 ∧
      (op &&& 0x08#8 = 0x08#8 ↔ s.toggle = true ∨ o &&& 0x08#8 = 0x08#8)

/-- R114: two consecutive ENCODEs of the same command. The second frame is the frame of the other toggle value; for
an opcode with bit 3 at 0 the two differ at indices 3, 4, `L - 2` and `L - 1` and nowhere else, at 3 and 4 in bit 3
only, and the checksums by 8 modulo 256; for the other opcodes they are identical (R80). -/
def Obligations.ConsecutiveEncodesAlternate : Prop :=
  ∀ (o : Byte) (ps : List Byte) (s : State), s.Idle →
    ∃ (t : State) (f g : List Byte),
      execAll [.encode o ps, .encode o ps] s = .next t ∧ t.toggle = s.toggle ∧
      t.delivered = s.delivered ++ frameResponse f ++ frameResponse g ∧
      f.length = 7 + 2 * ps.length ∧ g.length = 7 + 2 * ps.length ∧
      (o &&& 0x08#8 ≠ 0x00#8 → f = g) ∧
      (o &&& 0x08#8 = 0x00#8 →
        (∀ i, i < f.length → (f[i]? ≠ g[i]? ↔ i = 3 ∨ i = 4 ∨ i + 2 = f.length ∨ i + 1 = f.length)) ∧
        (∀ i, i = 3 ∨ i = 4 → f.getD i 0 ^^^ g.getD i 0 = 0x08#8) ∧
        (f.getD (f.length - 2) 0 - g.getD (f.length - 2) 0 = 0x08#8 ∨
          g.getD (f.length - 2) 0 - f.getD (f.length - 2) 0 = 0x08#8))

/-- R102: in any frame that obeys the complement law the bytes from index 3 on sum to `255 * (n + 2)`; and setting the
toggle bit in an opcode whose bit 3 is 0 adds 8 to `T` and 8 modulo 256 to `C`. -/
def Obligations.ByteSumAndToggleIdentities : Prop :=
  (∀ (f : List Byte) (n : Nat), f.length = 7 + 2 * n → ¬ brokenPair f →
    ((f.drop 3).map BitVec.toNat).sum = 255 * (n + 2)) ∧
  ∀ (o : Byte) (ps : List Byte), o &&& 0x08#8 = 0x00#8 →
    (transmitted true o).toNat = (transmitted false o).toNat + 8 ∧
    checksumOf (transmitted true o) ps = checksumOf (transmitted false o) ps + 8#8

/-! ## The catalog -/

/-- R141: PING, its request, its frame for both toggle values, and its frame condition. -/
def Obligations.PingFrames : Prop :=
  (∀ d : Byte, decodeRequest [⟨1#3, d, true⟩] = .ok .ping) ∧
  ∀ s : State, s.Idle →
    exec .ping s = .next { s with
      toggle := !s.toggle
      acc := if s.toggle then 0x18#8 else 0x10#8
      pgHold := if s.toggle then 0x18#8 else 0x10#8
      opLat := 1#3
      delivered := s.delivered ++ frameResponse
        (if s.toggle then [0x55#8, 0xFF#8, 0x00#8, 0x18#8, 0xE7#8, 0x18#8, 0xE7#8]
         else [0x55#8, 0xFF#8, 0x00#8, 0x10#8, 0xEF#8, 0x10#8, 0xEF#8]) }

/-- R142: STOP_ALL. -/
def Obligations.StopAllFrames : Prop :=
  (∀ d : Byte, decodeRequest [⟨2#3, d, true⟩] = .ok .stopAll) ∧
  ∀ s : State, s.Idle →
    exec .stopAll s = .next { s with
      toggle := !s.toggle
      acc := if s.toggle then 0x58#8 else 0x50#8
      pgHold := if s.toggle then 0x58#8 else 0x50#8
      opLat := 2#3
      delivered := s.delivered ++ frameResponse
        (if s.toggle then [0x55#8, 0xFF#8, 0x00#8, 0x58#8, 0xA7#8, 0x58#8, 0xA7#8]
         else [0x55#8, 0xFF#8, 0x00#8, 0x50#8, 0xAF#8, 0x50#8, 0xAF#8]) }

/-- R143: BEEP. -/
def Obligations.BeepFrames : Prop :=
  (∀ d : Byte, decodeRequest [⟨3#3, d, true⟩] = .ok .beep) ∧
  ∀ s : State, s.Idle →
    exec .beep s = .next { s with
      toggle := !s.toggle
      acc := if s.toggle then 0x5A#8 else 0x52#8
      pgHold := if s.toggle then 0x5A#8 else 0x52#8
      opLat := 3#3
      delivered := s.delivered ++ frameResponse
        (if s.toggle then [0x55#8, 0xFF#8, 0x00#8, 0x59#8, 0xA6#8, 0x01#8, 0xFE#8, 0x5A#8, 0xA5#8]
         else [0x55#8, 0xFF#8, 0x00#8, 0x51#8, 0xAE#8, 0x01#8, 0xFE#8, 0x52#8, 0xAD#8]) }

/-- R144: MOTOR_ON with a valid index, whatever `N_MOTORS` is: the nine bytes, and the frame condition. -/
def Obligations.MotorOnFrames : Prop :=
  ∀ (m : Byte) (s : State), s.Idle → m.toNat < s.cfg.nMotors →
    let op : Byte := if s.toggle then 0x29#8 else 0x21#8
    let p : Byte := 0x80#8 ||| BitVec.ofNat 8 (2 ^ m.toNat)
    exec (.motorOn m) s = .next { s with
      toggle := !s.toggle
      acc := op + p
      pgHold := op + p
      opLat := 4#3
      delivered := s.delivered ++ frameResponse
        [0x55#8, 0xFF#8, 0x00#8, op, op ^^^ 0xFF#8, p, p ^^^ 0xFF#8, op + p, (op + p) ^^^ 0xFF#8] }

/-- R145: MOTOR_OFF with a valid index. -/
def Obligations.MotorOffFrames : Prop :=
  ∀ (m : Byte) (s : State), s.Idle → m.toNat < s.cfg.nMotors →
    let op : Byte := if s.toggle then 0x29#8 else 0x21#8
    let p : Byte := 0x40#8 ||| BitVec.ofNat 8 (2 ^ m.toNat)
    exec (.motorOff m) s = .next { s with
      toggle := !s.toggle
      acc := op + p
      pgHold := op + p
      opLat := 5#3
      delivered := s.delivered ++ frameResponse
        [0x55#8, 0xFF#8, 0x00#8, op, op ^^^ 0xFF#8, p, p ^^^ 0xFF#8, op + p, (op + p) ^^^ 0xFF#8] }

/-- R147: a rejected motor index produces no frame byte and leaves the toggle, so that the next operation uses the
same toggle value; only the trailer with status 4 comes, and only `op_lat` has been written. -/
def Obligations.RejectedMotorIndexChangesNothing : Prop :=
  ∀ (m : Byte) (s : State), s.Idle → s.cfg.nMotors ≤ m.toNat →
    exec (.motorOn m) s = .next { s with
      opLat := 4#3, delivered := s.delivered ++ [⟨0x00#8, 7#3, true, 4#3⟩] } ∧
    exec (.motorOff m) s = .next { s with
      opLat := 5#3, delivered := s.delivered ++ [⟨0x00#8, 7#3, true, 4#3⟩] }

/-- R82: each catalog operation gives the state and the response of the ENCODE it expands to, but for the operation
code that `op_lat` keeps. -/
def Obligations.CatalogOperationsExpandToEncode : Prop :=
  ∀ (s : State), s.Idle →
    (∃ t, exec (.encode 0x10#8 []) s = .next t ∧ exec .ping s = .next { t with opLat := 1#3 }) ∧
    (∃ t, exec (.encode 0x50#8 []) s = .next t ∧ exec .stopAll s = .next { t with opLat := 2#3 }) ∧
    (∃ t, exec (.encode 0x51#8 [0x01#8]) s = .next t ∧ exec .beep s = .next { t with opLat := 3#3 }) ∧
    (∀ m : Byte, m.toNat < s.cfg.nMotors →
      (∃ t, exec (.encode 0x21#8 [0x80#8 ||| (1#8 <<< m.toNat)]) s = .next t ∧
        exec (.motorOn m) s = .next { t with opLat := 4#3 }) ∧
      (∃ t, exec (.encode 0x21#8 [0x40#8 ||| (1#8 <<< m.toNat)]) s = .next t ∧
        exec (.motorOff m) s = .next { t with opLat := 5#3 })) ∧
    (∀ m : Byte, s.cfg.nMotors ≤ m.toNat →
      (∃ t, exec (.motorOn m) s = .next t ∧ t.toggle = s.toggle ∧
        t.delivered = s.delivered ++ [RspBeat.trailer ErrorKind.invalidMotorIndex.code]) ∧
      (∃ t, exec (.motorOff m) s = .next t ∧ t.toggle = s.toggle ∧
        t.delivered = s.delivered ++ [RspBeat.trailer ErrorKind.invalidMotorIndex.code]))

/-! ## DECODE -/

/-- R122: DECODE of a frame of well-formed length hands the frame's bytes back in index order, each tagged with its
field, and a trailer OK, whatever the values of the bytes (R121); nothing but `op_lat` has been written. -/
def Obligations.DecodeReturnsTaggedFrame : Prop :=
  ∀ (f : List Byte) (n : Nat) (s : State), s.Idle → f.length = 7 + 2 * n →
    exec (.decode f) s = .next { s with
      opLat := 6#3
      delivered := s.delivered ++
        ((List.range f.length).map fun i => RspBeat.dataBeat (f.getD i 0) (classify i f.length)) ++
        [⟨0x00#8, 7#3, true, 0#3⟩] }

/-- R161: DECODE and VALIDATE of a frame of malformed length answer MalformedFrame by the length alone: the trailer
with status 1, and only `op_lat` written. -/
def Obligations.MalformedLengthIsReported : Prop :=
  ∀ (f : List Byte) (s : State), s.Idle → f.length < 7 ∨ f.length % 2 = 0 →
    exec (.decode f) s = .next { s with
      opLat := 6#3, delivered := s.delivered ++ [⟨0x00#8, 7#3, true, 1#3⟩] } ∧
    exec (.validate f) s = .next { s with
      opLat := 7#3, delivered := s.delivered ++ [⟨0x00#8, 7#3, true, 1#3⟩] }

/-- R66: the fields of the DecodedFrame, each from its index. -/
def Obligations.DecodedFieldsStandAtTheirIndices : Prop :=
  ∀ (f : List Byte) (n : Nat), f.length = 7 + 2 * n →
    decodeFrame f = .ok (.ok {
      preamble := (f.getD 0 0, f.getD 1 0, f.getD 2 0)
      opcode := f.getD 3 0
      opcodeComplement := f.getD 4 0
      parameters := (List.range n).map fun k => (f.getD (5 + 2 * k) 0, f.getD (6 + 2 * k) 0)
      checksum := f.getD (f.length - 2) 0
      checksumComplement := f.getD (f.length - 1) 0 })

/-- R124: DECODE loses nothing: the fields laid end to end are the frame, and two different frames of well-formed
length never decode to the same DecodedFrame. -/
def Obligations.DecodeLosesNothing : Prop :=
  (∀ f : List Byte, checkLen f.length ≠ none →
    ∃ d, decodeFrame f = .ok (.ok d) ∧
      [d.preamble.1, d.preamble.2.1, d.preamble.2.2] ++ [d.opcode, d.opcodeComplement] ++
        (d.parameters.flatMap fun p => [p.1, p.2]) ++ [d.checksum, d.checksumComplement] = f) ∧
  ∀ (f g : List Byte) (d : DecodedFrame),
    decodeFrame f = .ok (.ok d) → decodeFrame g = .ok (.ok d) → f = g

/-- R123: DECODE of what ENCODE returned. -/
def Obligations.DecodeUndoesEncode : Prop :=
  ∀ (tog : Bool) (o : Byte) (ps : List Byte),
    let op : Byte := o ||| (if tog then 0x08#8 else 0x00#8)
    let c : Byte := BitVec.ofNat 8 ((op.toNat + (ps.map BitVec.toNat).sum) % 256)
    decodeFrame (encodedFrame tog o ps) = .ok (.ok {
      preamble := (0x55#8, 0xFF#8, 0x00#8)
      opcode := op
      opcodeComplement := op ^^^ 0xFF#8
      parameters := ps.map fun p => (p, p ^^^ 0xFF#8)
      checksum := c
      checksumComplement := c ^^^ 0xFF#8 })

/-- R201: two frames back to back have an even length, so DECODE and VALIDATE find them malformed. -/
def Obligations.BackToBackFramesAreMalformed : Prop :=
  ∀ (tog tog' : Bool) (o o' : Byte) (ps ps' : List Byte) (s : State), s.Idle →
    ∃ t u, exec (.decode (encodedFrame tog o ps ++ encodedFrame tog' o' ps')) s = .next t ∧
      exec (.validate (encodedFrame tog o ps ++ encodedFrame tog' o' ps')) s = .next u ∧
      t.delivered = s.delivered ++ [RspBeat.trailer ErrorKind.malformedFrame.code] ∧
      u.delivered = s.delivered ++ [RspBeat.trailer ErrorKind.malformedFrame.code]

/-! ## VALIDATE -/

/-- R126: VALIDATE on a frame of well-formed length, the checks in order, with what each outcome leaves in the
accumulator: a broken pair is reported whatever the checksum, then a wrong checksum, else Valid. -/
def Obligations.ValidateVerdicts : Prop :=
  ∀ (f : List Byte) (n : Nat) (s : State), s.Idle → f.length = 7 + 2 * n →
    (brokenPair f → exec (.validate f) s = .next { s with
      opLat := 7#3, delivered := s.delivered ++ [⟨0x00#8, 7#3, true, 2#3⟩] }) ∧
    (¬ brokenPair f → f.getD (f.length - 2) 0 ≠ dueChecksum f n → exec (.validate f) s = .next { s with
      acc := dueChecksum f n, opLat := 7#3, delivered := s.delivered ++ [⟨0x00#8, 7#3, true, 3#3⟩] }) ∧
    (¬ brokenPair f → f.getD (f.length - 2) 0 = dueChecksum f n → exec (.validate f) s = .next { s with
      acc := dueChecksum f n, opLat := 7#3, delivered := s.delivered ++ [⟨0x00#8, 7#3, true, 0#3⟩] })

/-- R116 item 7, R129: VALIDATE of a frame that ENCODE returned is Valid, whatever toggle either met. -/
def Obligations.EncodedFramesAreValid : Prop :=
  ∀ (tog : Bool) (o : Byte) (ps : List Byte) (s : State), s.Idle →
    exec (.validate (encodedFrame tog o ps)) s = .next { s with
      acc := checksumOf (transmitted tog o) ps, opLat := 7#3
      delivered := s.delivered ++ [⟨0x00#8, 7#3, true, 0#3⟩] }

/-- R129, second guarantee: any one bit changed in any one byte at index 3 or above of a Valid frame gives
ComplementMismatch. -/
def Obligations.SingleBitFaultsAreDetected : Prop :=
  ∀ (f : List Byte) (s t : State) (i j : Nat),
    validateFrame f s = .ok (.valid, t) → 3 ≤ i → i < f.length → j < 8 →
    validateFrame (f.set i (f.getD i 0 ^^^ BitVec.ofNat 8 (2 ^ j))) s = .ok (.complementMismatch, s)

/-- R127: VALIDATE does not look at bytes 0 to 2. -/
def Obligations.ValidateIgnoresPreamble : Prop :=
  (∀ (a b c a' b' c' : Byte) (r : List Byte) (s : State),
    exec (.validate (a :: b :: c :: r)) s = exec (.validate (a' :: b' :: c' :: r)) s) ∧
  ∀ s : State, s.Idle →
    exec (.validate [0x00#8, 0x00#8, 0x00#8, 0x10#8, 0xEF#8, 0x10#8, 0xEF#8]) s = .next { s with
      acc := 0x10#8, opLat := 7#3, delivered := s.delivered ++ [⟨0x00#8, 7#3, true, 0#3⟩] }

/-! ## All operations -/

/-- R11, R113, R167: every operation completes on an idle block, leaves it idle, inverts the toggle exactly when it
is an encode that was not rejected, hands over a response that ends in its one trailer, and touches neither the
parameters nor the host's requests (log 3) nor the timing (log 4). -/
def Obligations.EveryOperationCompletes : Prop :=
  ∀ (i : Instr) (s : State), s.Idle →
    ∃ (t : State) (r : List RspBeat), exec i s = .next t ∧ t.Idle ∧
      t.toggle = (s.toggle ^^ flipsToggle s.cfg i) ∧
      t.delivered = s.delivered ++ r ∧ endsInTrailer r = true ∧ (∀ b ∈ r, b.legal = true) ∧
      t.cfg = s.cfg ∧ t.inputs = s.inputs ∧ t.edges = s.edges ∧ t.reqStall = s.reqStall ∧
      t.rspStall = s.rspStall

/-- R165: an operation whose trailer carries an error leaves the toggle and sends no data beat. -/
def Obligations.ErrorsLeaveTheToggleAndSendNoData : Prop :=
  ∀ (i : Instr) (s t : State) (r : List RspBeat) (st : BitVec 3), s.Idle → exec i s = .next t →
    t.delivered = s.delivered ++ r ++ [RspBeat.trailer st] → st ≠ statusOk →
    r = [] ∧ t.toggle = s.toggle

/-- R12, R13: nothing but the toggle carries over. From two idle states with the same parameters and the same
toggle, and any leftovers in the datapath registers, an operation gives the same response and the same toggle. -/
def Obligations.LeftoverRegistersAreNeverRead : Prop :=
  ∀ (i : Instr) (s s' : State), s.Idle → s'.Idle → s.cfg = s'.cfg → s.toggle = s'.toggle →
    ∃ (t t' : State) (r : List RspBeat), exec i s = .next t ∧ exec i s' = .next t' ∧
      t.delivered = s.delivered ++ r ∧ t'.delivered = s'.delivered ++ r ∧ t.toggle = t'.toggle

/-- R51: from a reset, the operation that follows `j - 1` flipping ones sees `toggle = (j - 1) mod 2`, whatever
other operations stand among them. -/
def Obligations.ToggleCountsTheFlips : Prop :=
  ∀ (is : List Instr) (s : State), s.Idle → s.toggle = false →
    ∃ t, execAll is s = .next t ∧ t.Idle ∧
      (t.toggle = true ↔ (is.countP (flipsToggle s.cfg)) % 2 = 1)

/-! ## Requests and operations -/

/-- Decoding the request that the encoder writes for an operation gives the operation back, with every operand at
every value and any number of payload bytes; and that request is whole. What the encoder writes in ignored signals is
the model's choice (log 8). -/
def Obligations.DecodeEncodeRoundTrip : Prop :=
  ∀ i : Instr, decodeRequest (encodeRequest i) = .ok i ∧ wholeRequest (encodeRequest i) = true

/-- R40, R75: the dispatch cannot fail: exactly the whole requests are read as operations, all eight codes
included. -/
def Obligations.ExactlyWholeRequestsDecode : Prop :=
  ∀ bs : List ReqBeat, (∃ i, decodeRequest bs = .ok i) ↔ wholeRequest bs = true

/-- R71, R74: `req_op` of payload beats, `req_data` of headers without operand and stray payload beats make no
difference. -/
def Obligations.IgnoredSignalsMakeNoDifference : Prop :=
  (∀ (h : ReqBeat) (ps qs : List ReqBeat),
    ps.map (fun b => (b.data, b.last)) = qs.map (fun b => (b.data, b.last)) →
    decodeRequest (h :: ps) = decodeRequest (h :: qs)) ∧
  (∀ (d : Byte) (l : Bool) (stray : List ReqBeat),
    wholeRequest (⟨1#3, d, l⟩ :: stray) = true →
    decodeRequest (⟨1#3, d, l⟩ :: stray) = .ok .ping ∧
    decodeRequest (⟨2#3, d, l⟩ :: stray) = .ok .stopAll ∧
    decodeRequest (⟨3#3, d, l⟩ :: stray) = .ok .beep ∧
    decodeRequest (⟨4#3, d, l⟩ :: stray) = .ok (.motorOn d) ∧
    decodeRequest (⟨5#3, d, l⟩ :: stray) = .ok (.motorOff d) ∧
    decodeRequest (⟨6#3, d, l⟩ :: stray) = decodeRequest (⟨6#3, 0x00#8, l⟩ :: stray) ∧
    decodeRequest (⟨7#3, d, l⟩ :: stray) = decodeRequest (⟨7#3, 0x00#8, l⟩ :: stray))

/-- A few requests written out from R74, R75 and R81, one of each family, and what they ask for. -/
def Obligations.WrittenOutRequestsDecode : Prop :=
  decodeRequest [⟨0b000#3, 0x51#8, false⟩, ⟨0b000#3, 0x01#8, true⟩] = .ok (.encode 0x51#8 [0x01#8]) ∧
  decodeRequest [⟨0b001#3, 0x00#8, true⟩] = .ok .ping ∧
  decodeRequest [⟨0b100#3, 0x01#8, true⟩] = .ok (.motorOn 0x01#8) ∧
  decodeRequest [⟨0b110#3, 0x00#8, true⟩] = .ok (.decode []) ∧
  decodeRequest [⟨0b111#3, 0x00#8, false⟩, ⟨0b000#3, 0x55#8, true⟩] = .ok (.validate [0x55#8])

/-! ## The step -/

/-- A step runs the decoded operation: on an idle block that is offered the beats of a request for a well-formed
operation, the step takes those beats from the host and is exec of the operation. That this is one step is the model's choice
(log 11). -/
def Obligations.StepRunsTheDecodedRequest : Prop :=
  ∀ (s : State) (bs : List ReqBeat) (rest : List HostInput) (i : Instr),
    s.busy = false → s.inputs = bs.map .offer ++ rest → decodeRequest bs = .ok i → i.wf s.cfg = true →
    step s = exec i { s with inputs := rest }

/-- R16, R50: the requested operations are performed one after the other, in the host's order, each once. That this
takes as many steps as there are operations, one step being one whole operation, is the model's choice (log 11); so is
what the encoder writes in ignored signals (log 8), and that the host's offers stand in a list (log 3). -/
def Obligations.StepsPerformRequestsInOrder : Prop :=
  ∀ (is : List Instr) (s : State) (rest : List HostInput), s.Idle →
    (∀ i ∈ is, i.wf s.cfg = true) → s.inputs = (is.flatMap encodeRequest).map .offer ++ rest →
    Host.Core.run Sys2Proof.core is.length s = execAll is { s with inputs := rest }

/-- U4, R202: the one operation the model turns away: DECODE of a frame beyond `MAX_DECODE_LEN` (log 5), offered
as the encoder writes it (log 8). -/
def Obligations.DecodeBeyondTheLimitIsRefused : Prop :=
  ∀ (s : State) (f : List Byte) (rest : List HostInput) (lim : Nat),
    s.busy = false → s.inputs = (encodeRequest (.decode f)).map .offer ++ rest →
    s.cfg.maxDecodeLen = some lim → lim < f.length → step s = .refused .decodeBeyondMaxLen

/-- The invariant holds right after reset, and the block is idle there. That the model's own fields are empty or 0
there is its choice (log 2, log 3, log 4). -/
def Obligations.ResetStateIsGood : Prop := State.reset.Inv ∧ State.reset.Idle

/-- R14, R19, R41, R46, R77: every step, be it an operation or a clock edge, keeps the invariant. That no complement
is pending between two edges of a transaction is the model's choice (log 10). -/
def Obligations.EveryStepKeepsTheInvariant : Prop :=
  ∀ s t : State, s.Inv → step s = .next t → t.Inv

/-- R31, R91, R92: no precondition of a primitive is ever broken in a good state, and only an instance with
`MAX_DECODE_LEN` set can turn anything away (log 5, log 6). -/
def Obligations.GoodStatesNeverStop : Prop :=
  ∀ s : State, s.Inv →
    (∃ t, step s = .next t) ∨ (step s = .refused .decodeBeyondMaxLen ∧ s.cfg.maxDecodeLen ≠ none)

/-- R18, R20: no step changes the parameters, and what the host has received (log 3) only grows. -/
def Obligations.ParametersStayAndDeliveriesGrow : Prop :=
  ∀ s t : State, step s = .next t → t.cfg = s.cfg ∧ ∃ bs, t.delivered = s.delivered ++ bs

/-- R176, R202: with nothing more from the host the machine waits for ever; and an edge at which the host offers
nothing and takes nothing changes nothing but the free timing (log 4). -/
def Obligations.WaitingChangesNothing : Prop :=
  (∀ s : State, s.inputs = [] → step s = .next s) ∧
  ∀ (p : Pins) (s : State), p.rst = false → p.reqValid = false → p.rspReady = false →
    ∃ t, clockEdge p s = .next t ∧ sameButTiming s t

/-! ## Reset -/

/-- R22: after a reset edge every piece of state has the value of R22's table, from whatever state; while reset is
asserted `req_ready` and `rsp_valid` are 0. -/
def Obligations.ResetEdgeGivesTheResetValues : Prop :=
  ∀ (p : Pins) (s : State), p.rst = true →
    (outputs p s).reqReady = false ∧ (outputs p s).rsp = none ∧
    ∃ t, clockEdge p s = .next t ∧ t.toggle = false ∧ (∀ q, (outputs q t).toggleQ = false) ∧
      t.acc = 0x00#8 ∧ t.pgHold = 0x00#8 ∧ t.pgPhase = false ∧ t.busy = false ∧ t.opLat = 0#3

/-- R192: a reset edge drops the transaction in flight, from whatever state: the block is idle with the toggle clear,
keeps and owes nothing, nothing more is delivered, and the parameters stay. The host's list of inputs stays too, its
giving up of beats being the host's own deed (the model's choice, log 3). A request for a well-formed operation offered
next is performed as a new one, in one step (the model's choice, log 11). -/
def Obligations.ResetDropsTheTransaction : Prop :=
  ∀ (p : Pins) (s : State), p.rst = true →
    ∃ t, clockEdge p s = .next t ∧ t.Idle ∧ t.toggle = false ∧ t.delivered = s.delivered ∧
      t.inputs = s.inputs ∧ t.cfg = s.cfg ∧
      ∀ (bs : List ReqBeat) (rest : List HostInput) (i : Instr),
        s.inputs = bs.map .offer ++ rest → decodeRequest bs = .ok i → i.wf s.cfg = true →
        step t = exec i { t with inputs := rest }

/-! ## The ports -/

/-- R43, R45: a beat moves exactly where, out of reset, `valid` and `ready` of its channel are both 1; a request beat
only while idle or as a beat of the open request. An edge out of reset takes exactly the beat on the request pins where
it moves, and no request beat at all where it does not; it hands over exactly the response beat offered where that one
moves; and beside these it changes only the free timing (log 4). -/
def Obligations.OneBeatPerChannelPerEdge : Prop :=
  ∀ (p : Pins) (s t : State), clockEdge p s = .next t →
    (requestMoves p s = true ↔ p.rst = false ∧ p.reqValid = true ∧ (outputs p s).reqReady = true) ∧
    (requestMoves p s = true → s.busy = false ∨ s.reqOpen = true) ∧
    (responseMoves p s = true ↔ p.rst = false ∧ p.rspReady = true ∧ (outputs p s).rsp.isSome = true) ∧
    (p.rst = false → ∃ u,
      (if requestMoves p s then takeBeat p.req s = .next u else u = s) ∧
      sameButTiming (if responseMoves p s then giveBeat u else u) t) ∧
    t.delivered = s.delivered ++
      (if responseMoves p s then (outputs p s).rsp.toList else [])

/-- R44: a response beat offered stays offered, unchanged, until it has moved, whatever the host shows next. -/
def Obligations.OfferedBeatIsHeld : Prop :=
  ∀ (p q : Pins) (s t : State) (b : RspBeat), p.rst = false → q.rst = false → p.rspReady = false →
    (outputs p s).rsp = some b → clockEdge p s = .next t → (outputs q t).rsp = some b

/-- R44: `req_ready` does not look at `req_valid`, and `rsp_valid` does not look at `rsp_ready`. -/
def Obligations.ReadyAndValidDoNotLoop : Prop :=
  ∀ (p : Pins) (s : State) (b : Bool),
    (outputs { p with reqValid := b } s).reqReady = (outputs p s).reqReady ∧
    (outputs { p with rspReady := b } s).rsp = (outputs p s).rsp

/-- R115 step 2, R148: at a clock edge out of reset the toggle flips exactly when the header beat of an ENCODE-class
request with a valid index moves, and `busy` and `op_lat` then hold the new operation (log 13). `toggle_q` shows the
toggle, the new value from that edge on, whatever the input pins are (R18). -/
def Obligations.ToggleFlipsAtTheHeaderBeat : Prop :=
  ∀ (p : Pins) (s t : State), s.Inv → p.rst = false → clockEdge p s = .next t →
    t.toggle = (s.toggle ^^ (requestMoves p s && !s.busy &&
      flipsToggle s.cfg (readRequest (OpSel.ofCode p.req.op) p.req.data []))) ∧
    (requestMoves p s = true → s.busy = false → t.busy = true ∧ t.opLat = p.req.op) ∧
    ∀ q, (outputs q s).toggleQ = s.toggle ∧ (outputs q t).toggleQ = t.toggle

/-- R46, R115, R122, R128, R148: a request taken beat by beat, with its response then handed over, leaves exactly
the state of the operation it asks for, stray payload and ignored signals included. -/
def Obligations.BeatByBeatIsTheOperation : Prop :=
  ∀ (bs : List ReqBeat) (i : Instr) (s : State), s.Inv → s.busy = false →
    decodeRequest bs = .ok i → i.wf s.cfg = true → completeWith bs s = exec i s

/-- R46: whatever the interleaving and the timing: after any run of clock edges without reset from an idle block, in
which the beats that moved are the first ones of a request, bringing the transaction to its end with the beats that
are left gives the state of the operation, but for the timing. -/
def Obligations.AnyInterleavingRefinesTheOperation : Prop :=
  ∀ (pins : List Pins) (left : List ReqBeat) (i : Instr) (s t : State), s.Inv → s.busy = false →
    (∀ p ∈ pins, p.rst = false) → runEdges pins s = .next t →
    decodeRequest (movedBeats pins s ++ left) = .ok i → i.wf s.cfg = true →
    ∃ u v, completeWith left t = .next u ∧ exec i s = .next v ∧ sameButTiming v u

/-- R47, R205: every transaction ends, whatever host keeps its duties and at whatever pace, hosts that go on with
further requests among them, and whatever the free delays are (log 4): for some number of edges the whole request has moved and the block is idle again, with the state and
the response of the operation, but for the timing. -/
def Obligations.EveryTransactionEnds : Prop :=
  ∀ (drive : Nat → Pins) (bs : List ReqBeat) (i : Instr) (s : State), s.Inv → s.busy = false →
    decodeRequest bs = .ok i → i.wf s.cfg = true → KeepsDuties drive bs s →
    ∃ n t u, runEdges (firstEdges drive n) s = .next t ∧ movedBefore drive s n = bs ∧ t.Idle ∧
      exec i s = .next u ∧ sameButTiming u t

/-- R47: from any point of a transaction it can still be ended. After any run of edges without reset from an idle
block, with any host, in which the beats that moved are the first ones of a request, the one host that offers the beats
that are left and takes what it is offered at every edge brings the block to idle in finitely many edges, whatever the
free delays are (log 4), with the state and the response of the operation, but for the timing. -/
def Obligations.PromptHostEndsAnyTransaction : Prop :=
  ∀ (pins : List Pins) (left : List ReqBeat) (i : Instr) (s t : State), s.Inv → s.busy = false →
    (∀ p ∈ pins, p.rst = false) → runEdges pins s = .next t →
    decodeRequest (movedBeats pins s ++ left) = .ok i → i.wf s.cfg = true →
    ∃ n v u, serve n left t = .next v ∧ v.Idle ∧ exec i s = .next u ∧ sameButTiming u v

/-- R205: an idle block out of reset shows `req_ready = 1` after finitely many edges, whatever the free delays are and
although the host offers nothing. -/
def Obligations.IdleBlockBecomesReady : Prop :=
  ∀ (p : Pins) (s : State), s.Idle → p.rst = false → p.reqValid = false →
    ∃ n t, runEdges (List.replicate n p) s = .next t ∧ t.Idle ∧ (outputs p t).reqReady = true
end

