-- ==== Sys2Proof/Laws/State.lean ====
section
/-! SUPPORT. What each update of the state does to each field: one lemma per field per update. -/

namespace Sys2Proof.Machine

/-! ## emit -/

@[simp] theorem emit_cfg (b : Byte) (k : Kind) (s : State) : (emit b k s).cfg = s.cfg := rfl
@[simp] theorem emit_toggle (b : Byte) (k : Kind) (s : State) : (emit b k s).toggle = s.toggle := rfl
@[simp] theorem emit_acc (b : Byte) (k : Kind) (s : State) : (emit b k s).acc = s.acc := rfl
@[simp] theorem emit_pgHold (b : Byte) (k : Kind) (s : State) : (emit b k s).pgHold = s.pgHold := rfl
@[simp] theorem emit_pgPhase (b : Byte) (k : Kind) (s : State) : (emit b k s).pgPhase = s.pgPhase := rfl
@[simp] theorem emit_busy (b : Byte) (k : Kind) (s : State) : (emit b k s).busy = s.busy := rfl
@[simp] theorem emit_opLat (b : Byte) (k : Kind) (s : State) : (emit b k s).opLat = s.opLat := rfl
@[simp] theorem emit_reqOpen (b : Byte) (k : Kind) (s : State) : (emit b k s).reqOpen = s.reqOpen := rfl
@[simp] theorem emit_frameBuf (b : Byte) (k : Kind) (s : State) : (emit b k s).frameBuf = s.frameBuf := rfl
@[simp] theorem emit_errLat (b : Byte) (k : Kind) (s : State) : (emit b k s).errLat = s.errLat := rfl
@[simp] theorem emit_rspOut (b : Byte) (k : Kind) (s : State) :
    (emit b k s).rspOut = s.rspOut ++ [RspBeat.dataBeat b k] := rfl
@[simp] theorem emit_inputs (b : Byte) (k : Kind) (s : State) : (emit b k s).inputs = s.inputs := rfl
@[simp] theorem emit_delivered (b : Byte) (k : Kind) (s : State) : (emit b k s).delivered = s.delivered := rfl
@[simp] theorem emit_edges (b : Byte) (k : Kind) (s : State) : (emit b k s).edges = s.edges := rfl
@[simp] theorem emit_reqStall (b : Byte) (k : Kind) (s : State) : (emit b k s).reqStall = s.reqStall := rfl
@[simp] theorem emit_rspStall (b : Byte) (k : Kind) (s : State) : (emit b k s).rspStall = s.rspStall := rfl

/-! ## emitAll -/

@[simp] theorem emitAll_cfg (bs : List RspBeat) (s : State) : (emitAll bs s).cfg = s.cfg := rfl
@[simp] theorem emitAll_toggle (bs : List RspBeat) (s : State) : (emitAll bs s).toggle = s.toggle := rfl
@[simp] theorem emitAll_acc (bs : List RspBeat) (s : State) : (emitAll bs s).acc = s.acc := rfl
@[simp] theorem emitAll_pgHold (bs : List RspBeat) (s : State) : (emitAll bs s).pgHold = s.pgHold := rfl
@[simp] theorem emitAll_pgPhase (bs : List RspBeat) (s : State) : (emitAll bs s).pgPhase = s.pgPhase := rfl
@[simp] theorem emitAll_busy (bs : List RspBeat) (s : State) : (emitAll bs s).busy = s.busy := rfl
@[simp] theorem emitAll_opLat (bs : List RspBeat) (s : State) : (emitAll bs s).opLat = s.opLat := rfl
@[simp] theorem emitAll_reqOpen (bs : List RspBeat) (s : State) : (emitAll bs s).reqOpen = s.reqOpen := rfl
@[simp] theorem emitAll_frameBuf (bs : List RspBeat) (s : State) : (emitAll bs s).frameBuf = s.frameBuf := rfl
@[simp] theorem emitAll_errLat (bs : List RspBeat) (s : State) : (emitAll bs s).errLat = s.errLat := rfl
@[simp] theorem emitAll_rspOut (bs : List RspBeat) (s : State) : (emitAll bs s).rspOut = s.rspOut ++ bs := rfl
@[simp] theorem emitAll_inputs (bs : List RspBeat) (s : State) : (emitAll bs s).inputs = s.inputs := rfl
@[simp] theorem emitAll_delivered (bs : List RspBeat) (s : State) : (emitAll bs s).delivered = s.delivered := rfl
@[simp] theorem emitAll_edges (bs : List RspBeat) (s : State) : (emitAll bs s).edges = s.edges := rfl
@[simp] theorem emitAll_reqStall (bs : List RspBeat) (s : State) : (emitAll bs s).reqStall = s.reqStall := rfl
@[simp] theorem emitAll_rspStall (bs : List RspBeat) (s : State) : (emitAll bs s).rspStall = s.rspStall := rfl

/-! ## sendTrailer -/

@[simp] theorem sendTrailer_cfg (st : BitVec 3) (s : State) : (sendTrailer st s).cfg = s.cfg := rfl
@[simp] theorem sendTrailer_toggle (st : BitVec 3) (s : State) : (sendTrailer st s).toggle = s.toggle := rfl
@[simp] theorem sendTrailer_acc (st : BitVec 3) (s : State) : (sendTrailer st s).acc = s.acc := rfl
@[simp] theorem sendTrailer_pgHold (st : BitVec 3) (s : State) : (sendTrailer st s).pgHold = s.pgHold := rfl
@[simp] theorem sendTrailer_pgPhase (st : BitVec 3) (s : State) : (sendTrailer st s).pgPhase = s.pgPhase := rfl
@[simp] theorem sendTrailer_busy (st : BitVec 3) (s : State) : (sendTrailer st s).busy = s.busy := rfl
@[simp] theorem sendTrailer_opLat (st : BitVec 3) (s : State) : (sendTrailer st s).opLat = s.opLat := rfl
@[simp] theorem sendTrailer_reqOpen (st : BitVec 3) (s : State) : (sendTrailer st s).reqOpen = s.reqOpen := rfl
@[simp] theorem sendTrailer_frameBuf (st : BitVec 3) (s : State) : (sendTrailer st s).frameBuf = s.frameBuf := rfl
@[simp] theorem sendTrailer_errLat (st : BitVec 3) (s : State) : (sendTrailer st s).errLat = s.errLat := rfl
@[simp] theorem sendTrailer_rspOut (st : BitVec 3) (s : State) :
    (sendTrailer st s).rspOut = s.rspOut ++ [RspBeat.trailer st] := rfl
@[simp] theorem sendTrailer_inputs (st : BitVec 3) (s : State) : (sendTrailer st s).inputs = s.inputs := rfl
@[simp] theorem sendTrailer_delivered (st : BitVec 3) (s : State) : (sendTrailer st s).delivered = s.delivered := rfl
@[simp] theorem sendTrailer_edges (st : BitVec 3) (s : State) : (sendTrailer st s).edges = s.edges := rfl
@[simp] theorem sendTrailer_reqStall (st : BitVec 3) (s : State) : (sendTrailer st s).reqStall = s.reqStall := rfl
@[simp] theorem sendTrailer_rspStall (st : BitVec 3) (s : State) : (sendTrailer st s).rspStall = s.rspStall := rfl

/-! ## caClear -/

@[simp] theorem caClear_cfg (s : State) : (caClear s).cfg = s.cfg := rfl
@[simp] theorem caClear_toggle (s : State) : (caClear s).toggle = s.toggle := rfl
@[simp] theorem caClear_acc (s : State) : (caClear s).acc = 0x00#8 := rfl
@[simp] theorem caClear_pgHold (s : State) : (caClear s).pgHold = s.pgHold := rfl
@[simp] theorem caClear_pgPhase (s : State) : (caClear s).pgPhase = s.pgPhase := rfl
@[simp] theorem caClear_busy (s : State) : (caClear s).busy = s.busy := rfl
@[simp] theorem caClear_opLat (s : State) : (caClear s).opLat = s.opLat := rfl
@[simp] theorem caClear_reqOpen (s : State) : (caClear s).reqOpen = s.reqOpen := rfl
@[simp] theorem caClear_frameBuf (s : State) : (caClear s).frameBuf = s.frameBuf := rfl
@[simp] theorem caClear_errLat (s : State) : (caClear s).errLat = s.errLat := rfl
@[simp] theorem caClear_rspOut (s : State) : (caClear s).rspOut = s.rspOut := rfl
@[simp] theorem caClear_inputs (s : State) : (caClear s).inputs = s.inputs := rfl
@[simp] theorem caClear_delivered (s : State) : (caClear s).delivered = s.delivered := rfl
@[simp] theorem caClear_edges (s : State) : (caClear s).edges = s.edges := rfl
@[simp] theorem caClear_reqStall (s : State) : (caClear s).reqStall = s.reqStall := rfl
@[simp] theorem caClear_rspStall (s : State) : (caClear s).rspStall = s.rspStall := rfl

/-! ## caAdd -/

@[simp] theorem caAdd_cfg (b : Byte) (s : State) : (caAdd b s).cfg = s.cfg := rfl
@[simp] theorem caAdd_toggle (b : Byte) (s : State) : (caAdd b s).toggle = s.toggle := rfl
@[simp] theorem caAdd_acc (b : Byte) (s : State) : (caAdd b s).acc = s.acc + b := rfl
@[simp] theorem caAdd_pgHold (b : Byte) (s : State) : (caAdd b s).pgHold = s.pgHold := rfl
@[simp] theorem caAdd_pgPhase (b : Byte) (s : State) : (caAdd b s).pgPhase = s.pgPhase := rfl
@[simp] theorem caAdd_busy (b : Byte) (s : State) : (caAdd b s).busy = s.busy := rfl
@[simp] theorem caAdd_opLat (b : Byte) (s : State) : (caAdd b s).opLat = s.opLat := rfl
@[simp] theorem caAdd_reqOpen (b : Byte) (s : State) : (caAdd b s).reqOpen = s.reqOpen := rfl
@[simp] theorem caAdd_frameBuf (b : Byte) (s : State) : (caAdd b s).frameBuf = s.frameBuf := rfl
@[simp] theorem caAdd_errLat (b : Byte) (s : State) : (caAdd b s).errLat = s.errLat := rfl
@[simp] theorem caAdd_rspOut (b : Byte) (s : State) : (caAdd b s).rspOut = s.rspOut := rfl
@[simp] theorem caAdd_inputs (b : Byte) (s : State) : (caAdd b s).inputs = s.inputs := rfl
@[simp] theorem caAdd_delivered (b : Byte) (s : State) : (caAdd b s).delivered = s.delivered := rfl
@[simp] theorem caAdd_edges (b : Byte) (s : State) : (caAdd b s).edges = s.edges := rfl
@[simp] theorem caAdd_reqStall (b : Byte) (s : State) : (caAdd b s).reqStall = s.reqStall := rfl
@[simp] theorem caAdd_rspStall (b : Byte) (s : State) : (caAdd b s).rspStall = s.rspStall := rfl

/-! ## tfApply -/

@[simp] theorem tfApply_cfg (o : Byte) (s : State) : ((tfApply o s).2).cfg = s.cfg := rfl
@[simp] theorem tfApply_toggle (o : Byte) (s : State) : ((tfApply o s).2).toggle = !s.toggle := rfl
@[simp] theorem tfApply_acc (o : Byte) (s : State) : ((tfApply o s).2).acc = s.acc := rfl
@[simp] theorem tfApply_pgHold (o : Byte) (s : State) : ((tfApply o s).2).pgHold = s.pgHold := rfl
@[simp] theorem tfApply_pgPhase (o : Byte) (s : State) : ((tfApply o s).2).pgPhase = s.pgPhase := rfl
@[simp] theorem tfApply_busy (o : Byte) (s : State) : ((tfApply o s).2).busy = s.busy := rfl
@[simp] theorem tfApply_opLat (o : Byte) (s : State) : ((tfApply o s).2).opLat = s.opLat := rfl
@[simp] theorem tfApply_reqOpen (o : Byte) (s : State) : ((tfApply o s).2).reqOpen = s.reqOpen := rfl
@[simp] theorem tfApply_frameBuf (o : Byte) (s : State) : ((tfApply o s).2).frameBuf = s.frameBuf := rfl
@[simp] theorem tfApply_errLat (o : Byte) (s : State) : ((tfApply o s).2).errLat = s.errLat := rfl
@[simp] theorem tfApply_rspOut (o : Byte) (s : State) : ((tfApply o s).2).rspOut = s.rspOut := rfl
@[simp] theorem tfApply_inputs (o : Byte) (s : State) : ((tfApply o s).2).inputs = s.inputs := rfl
@[simp] theorem tfApply_delivered (o : Byte) (s : State) : ((tfApply o s).2).delivered = s.delivered := rfl
@[simp] theorem tfApply_edges (o : Byte) (s : State) : ((tfApply o s).2).edges = s.edges := rfl
@[simp] theorem tfApply_reqStall (o : Byte) (s : State) : ((tfApply o s).2).reqStall = s.reqStall := rfl
@[simp] theorem tfApply_rspStall (o : Byte) (s : State) : ((tfApply o s).2).rspStall = s.rspStall := rfl

/-! ## openTransaction -/

@[simp] theorem openTransaction_cfg (op : BitVec 3) (s : State) : (openTransaction op s).cfg = s.cfg := rfl
@[simp] theorem openTransaction_toggle (op : BitVec 3) (s : State) : (openTransaction op s).toggle = s.toggle := rfl
@[simp] theorem openTransaction_acc (op : BitVec 3) (s : State) : (openTransaction op s).acc = s.acc := rfl
@[simp] theorem openTransaction_pgHold (op : BitVec 3) (s : State) : (openTransaction op s).pgHold = s.pgHold := rfl
@[simp] theorem openTransaction_pgPhase (op : BitVec 3) (s : State) :
    (openTransaction op s).pgPhase = s.pgPhase := rfl
@[simp] theorem openTransaction_busy (op : BitVec 3) (s : State) : (openTransaction op s).busy = true := rfl
@[simp] theorem openTransaction_opLat (op : BitVec 3) (s : State) : (openTransaction op s).opLat = op := rfl
@[simp] theorem openTransaction_reqOpen (op : BitVec 3) (s : State) : (openTransaction op s).reqOpen = true := rfl
@[simp] theorem openTransaction_frameBuf (op : BitVec 3) (s : State) : (openTransaction op s).frameBuf = [] := rfl
@[simp] theorem openTransaction_errLat (op : BitVec 3) (s : State) : (openTransaction op s).errLat = none := rfl
@[simp] theorem openTransaction_rspOut (op : BitVec 3) (s : State) : (openTransaction op s).rspOut = s.rspOut := rfl
@[simp] theorem openTransaction_inputs (op : BitVec 3) (s : State) : (openTransaction op s).inputs = s.inputs := rfl
@[simp] theorem openTransaction_delivered (op : BitVec 3) (s : State) :
    (openTransaction op s).delivered = s.delivered := rfl
@[simp] theorem openTransaction_edges (op : BitVec 3) (s : State) : (openTransaction op s).edges = s.edges := rfl
@[simp] theorem openTransaction_reqStall (op : BitVec 3) (s : State) :
    (openTransaction op s).reqStall = s.reqStall := rfl
@[simp] theorem openTransaction_rspStall (op : BitVec 3) (s : State) :
    (openTransaction op s).rspStall = s.rspStall := rfl

/-! ## closeRequest -/

@[simp] theorem closeRequest_cfg (s : State) : (closeRequest s).cfg = s.cfg := rfl
@[simp] theorem closeRequest_toggle (s : State) : (closeRequest s).toggle = s.toggle := rfl
@[simp] theorem closeRequest_acc (s : State) : (closeRequest s).acc = s.acc := rfl
@[simp] theorem closeRequest_pgHold (s : State) : (closeRequest s).pgHold = s.pgHold := rfl
@[simp] theorem closeRequest_pgPhase (s : State) : (closeRequest s).pgPhase = s.pgPhase := rfl
@[simp] theorem closeRequest_busy (s : State) : (closeRequest s).busy = s.busy := rfl
@[simp] theorem closeRequest_opLat (s : State) : (closeRequest s).opLat = s.opLat := rfl
@[simp] theorem closeRequest_reqOpen (s : State) : (closeRequest s).reqOpen = false := rfl
@[simp] theorem closeRequest_frameBuf (s : State) : (closeRequest s).frameBuf = [] := rfl
@[simp] theorem closeRequest_errLat (s : State) : (closeRequest s).errLat = none := rfl
@[simp] theorem closeRequest_rspOut (s : State) : (closeRequest s).rspOut = s.rspOut := rfl
@[simp] theorem closeRequest_inputs (s : State) : (closeRequest s).inputs = s.inputs := rfl
@[simp] theorem closeRequest_delivered (s : State) : (closeRequest s).delivered = s.delivered := rfl
@[simp] theorem closeRequest_edges (s : State) : (closeRequest s).edges = s.edges := rfl
@[simp] theorem closeRequest_reqStall (s : State) : (closeRequest s).reqStall = s.reqStall := rfl
@[simp] theorem closeRequest_rspStall (s : State) : (closeRequest s).rspStall = s.rspStall := rfl

/-! ## deliverAll -/

@[simp] theorem deliverAll_cfg (s : State) : (deliverAll s).cfg = s.cfg := rfl
@[simp] theorem deliverAll_toggle (s : State) : (deliverAll s).toggle = s.toggle := rfl
@[simp] theorem deliverAll_acc (s : State) : (deliverAll s).acc = s.acc := rfl
@[simp] theorem deliverAll_pgHold (s : State) : (deliverAll s).pgHold = s.pgHold := rfl
@[simp] theorem deliverAll_pgPhase (s : State) : (deliverAll s).pgPhase = s.pgPhase := rfl
@[simp] theorem deliverAll_busy (s : State) : (deliverAll s).busy = false := rfl
@[simp] theorem deliverAll_opLat (s : State) : (deliverAll s).opLat = s.opLat := rfl
@[simp] theorem deliverAll_reqOpen (s : State) : (deliverAll s).reqOpen = s.reqOpen := rfl
@[simp] theorem deliverAll_frameBuf (s : State) : (deliverAll s).frameBuf = s.frameBuf := rfl
@[simp] theorem deliverAll_errLat (s : State) : (deliverAll s).errLat = s.errLat := rfl
@[simp] theorem deliverAll_rspOut (s : State) : (deliverAll s).rspOut = [] := rfl
@[simp] theorem deliverAll_inputs (s : State) : (deliverAll s).inputs = s.inputs := rfl
@[simp] theorem deliverAll_delivered (s : State) : (deliverAll s).delivered = s.delivered ++ s.rspOut := rfl
@[simp] theorem deliverAll_edges (s : State) : (deliverAll s).edges = s.edges := rfl
@[simp] theorem deliverAll_reqStall (s : State) : (deliverAll s).reqStall = s.reqStall := rfl
@[simp] theorem deliverAll_rspStall (s : State) : (deliverAll s).rspStall = s.rspStall := rfl

/-! ## resetEdge -/

@[simp] theorem resetEdge_cfg (s : State) : (resetEdge s).cfg = s.cfg := rfl
@[simp] theorem resetEdge_toggle (s : State) : (resetEdge s).toggle = false := rfl
@[simp] theorem resetEdge_acc (s : State) : (resetEdge s).acc = 0x00#8 := rfl
@[simp] theorem resetEdge_pgHold (s : State) : (resetEdge s).pgHold = 0x00#8 := rfl
@[simp] theorem resetEdge_pgPhase (s : State) : (resetEdge s).pgPhase = false := rfl
@[simp] theorem resetEdge_busy (s : State) : (resetEdge s).busy = false := rfl
@[simp] theorem resetEdge_opLat (s : State) : (resetEdge s).opLat = 0#3 := rfl
@[simp] theorem resetEdge_reqOpen (s : State) : (resetEdge s).reqOpen = false := rfl
@[simp] theorem resetEdge_frameBuf (s : State) : (resetEdge s).frameBuf = [] := rfl
@[simp] theorem resetEdge_errLat (s : State) : (resetEdge s).errLat = none := rfl
@[simp] theorem resetEdge_rspOut (s : State) : (resetEdge s).rspOut = [] := rfl
@[simp] theorem resetEdge_inputs (s : State) : (resetEdge s).inputs = s.inputs := rfl
@[simp] theorem resetEdge_delivered (s : State) : (resetEdge s).delivered = s.delivered := rfl
@[simp] theorem resetEdge_edges (s : State) : (resetEdge s).edges = s.edges + 1 := rfl
@[simp] theorem resetEdge_reqStall (s : State) : (resetEdge s).reqStall = Config.reqStall s.edges := rfl
@[simp] theorem resetEdge_rspStall (s : State) : (resetEdge s).rspStall = Config.rspStall s.edges := rfl

/-! ## placeRequest -/

@[simp] theorem placeRequest_cfg (bs : List ReqBeat) (s : State) : (placeRequest bs s).cfg = s.cfg := rfl
@[simp] theorem placeRequest_toggle (bs : List ReqBeat) (s : State) : (placeRequest bs s).toggle = s.toggle := rfl
@[simp] theorem placeRequest_acc (bs : List ReqBeat) (s : State) : (placeRequest bs s).acc = s.acc := rfl
@[simp] theorem placeRequest_pgHold (bs : List ReqBeat) (s : State) : (placeRequest bs s).pgHold = s.pgHold := rfl
@[simp] theorem placeRequest_pgPhase (bs : List ReqBeat) (s : State) : (placeRequest bs s).pgPhase = s.pgPhase := rfl
@[simp] theorem placeRequest_busy (bs : List ReqBeat) (s : State) : (placeRequest bs s).busy = false := rfl
@[simp] theorem placeRequest_opLat (bs : List ReqBeat) (s : State) : (placeRequest bs s).opLat = s.opLat := rfl
@[simp] theorem placeRequest_reqOpen (bs : List ReqBeat) (s : State) : (placeRequest bs s).reqOpen = s.reqOpen := rfl
@[simp] theorem placeRequest_frameBuf (bs : List ReqBeat) (s : State) :
    (placeRequest bs s).frameBuf = s.frameBuf := rfl
@[simp] theorem placeRequest_errLat (bs : List ReqBeat) (s : State) : (placeRequest bs s).errLat = s.errLat := rfl
@[simp] theorem placeRequest_rspOut (bs : List ReqBeat) (s : State) : (placeRequest bs s).rspOut = s.rspOut := rfl
@[simp] theorem placeRequest_inputs (bs : List ReqBeat) (s : State) :
    (placeRequest bs s).inputs = bs.map .offer ++ s.inputs := rfl
@[simp] theorem placeRequest_delivered (bs : List ReqBeat) (s : State) :
    (placeRequest bs s).delivered = s.delivered := rfl
@[simp] theorem placeRequest_edges (bs : List ReqBeat) (s : State) : (placeRequest bs s).edges = s.edges := rfl
@[simp] theorem placeRequest_reqStall (bs : List ReqBeat) (s : State) :
    (placeRequest bs s).reqStall = s.reqStall := rfl
@[simp] theorem placeRequest_rspStall (bs : List ReqBeat) (s : State) :
    (placeRequest bs s).rspStall = s.rspStall := rfl

@[simp] theorem tfApply_fst (o : Byte) (s : State) : (tfApply o s).1 = transmitted s.toggle o := rfl

/-! ## retime: only the timing fields change -/

@[simp] theorem retime_cfg (p : Pins) (a b : State) : (retime p a b).cfg = b.cfg := rfl
@[simp] theorem retime_toggle (p : Pins) (a b : State) : (retime p a b).toggle = b.toggle := rfl
@[simp] theorem retime_acc (p : Pins) (a b : State) : (retime p a b).acc = b.acc := rfl
@[simp] theorem retime_pgHold (p : Pins) (a b : State) : (retime p a b).pgHold = b.pgHold := rfl
@[simp] theorem retime_pgPhase (p : Pins) (a b : State) : (retime p a b).pgPhase = b.pgPhase := rfl
@[simp] theorem retime_busy (p : Pins) (a b : State) : (retime p a b).busy = b.busy := rfl
@[simp] theorem retime_opLat (p : Pins) (a b : State) : (retime p a b).opLat = b.opLat := rfl
@[simp] theorem retime_reqOpen (p : Pins) (a b : State) : (retime p a b).reqOpen = b.reqOpen := rfl
@[simp] theorem retime_frameBuf (p : Pins) (a b : State) : (retime p a b).frameBuf = b.frameBuf := rfl
@[simp] theorem retime_errLat (p : Pins) (a b : State) : (retime p a b).errLat = b.errLat := rfl
@[simp] theorem retime_rspOut (p : Pins) (a b : State) : (retime p a b).rspOut = b.rspOut := rfl
@[simp] theorem retime_inputs (p : Pins) (a b : State) : (retime p a b).inputs = b.inputs := rfl
@[simp] theorem retime_delivered (p : Pins) (a b : State) : (retime p a b).delivered = b.delivered := rfl
@[simp] theorem retime_edges (p : Pins) (a b : State) : (retime p a b).edges = a.edges + 1 := rfl

end Sys2Proof.Machine
end

