-- ==== Sys2Proof/Laws/Ops.lean ====
section
/-! SUPPORT. What each shared operation does, said once: provers cite these instead of unfolding. -/

namespace Sys2Proof.Machine

/-! ## Faults passed on -/

@[simp] theorem ok_bind {α β : Type} (a : α) (k : α → Except Fault β) :
    ((Except.ok a : Except Fault α) >>= k) = k a := rfl

@[simp] theorem error_bind {α β : Type} (e : Fault) (k : α → Except Fault β) :
    ((Except.error e : Except Fault α) >>= k) = .error e := rfl

@[simp] theorem pure_eq_ok {α : Type} (a : α) : (pure a : Except Fault α) = .ok a := rfl

/-! ## Bytes -/

@[simp] theorem cpl_cpl (b : Byte) : cpl (cpl b) = b := by simp [cpl]

theorem cpl_toNat (b : Byte) : (cpl b).toNat = 255 - b.toNat := by
  have h : ∀ b : Byte, (b ^^^ cplMask).toNat = 255 - b.toNat := by decide
  exact h b

theorem transmitted_false (o : Byte) : transmitted false o = o := rfl

theorem transmitted_true (o : Byte) : transmitted true o = o ||| toggleMask := rfl

/-! ## bitwise_complement_pairgen -/

/-- PG.LOAD from its precondition. -/
theorem pgLoad_ok {s : State} (h : s.pgPhase = false) (b : Byte) (k : ValueKind) :
    pgLoad b k s = .ok { emit b k.tag s with pgHold := b, pgPhase := true } := by simp [pgLoad, h]

/-- PG.COMP from its precondition. -/
theorem pgComp_ok {s : State} (h : s.pgPhase = true) (k : ValueKind) :
    pgComp k s = .ok { emit (cpl s.pgHold) k.complementTag s with pgPhase := false } := by simp [pgComp, h]

/-- PG.PAIR from its precondition: the two beats, `pg_hold` written, `pg_phase` back at 0. -/
theorem pgPair_ok {s : State} (h : s.pgPhase = false) (b : Byte) (k : ValueKind) :
    pgPair b k s = .ok { s with
      rspOut := s.rspOut ++ [RspBeat.dataBeat b k.tag, RspBeat.dataBeat (cpl b) k.complementTag]
      pgHold := b } := by
  have hs : s = { s with pgPhase := false } := by rw [← h]
  rw [pgPair, pgLoad_ok h, ok_bind, pgComp_ok rfl]
  conv_rhs => rw [hs]
  simp [emit]

/-- Everything PG.PAIR can do. -/
theorem pgPair_inv {s t : State} {b : Byte} {k : ValueKind} (h : pgPair b k s = .ok t) :
    s.pgPhase = false ∧ t = { s with
      rspOut := s.rspOut ++ [RspBeat.dataBeat b k.tag, RspBeat.dataBeat (cpl b) k.complementTag]
      pgHold := b } := by
  cases hp : s.pgPhase with
  | true => rw [pgPair, pgLoad, hp] at h; cases h
  | false =>
    rw [pgPair_ok hp] at h
    refine ⟨rfl, ?_⟩
    rw [← Except.ok.inj h, hp]

/-! ## The pieces of ENCODE -/

/-- The tagged beats of one pair. -/
def pairBeats (k : ValueKind) (b : Byte) : List RspBeat :=
  [RspBeat.dataBeat b k.tag, RspBeat.dataBeat (cpl b) k.complementTag]

/-- The tagged beats of the preamble. -/
def preambleBeats : List RspBeat :=
  [RspBeat.dataBeat preamble0 .preamble, RspBeat.dataBeat preamble1 .preamble,
    RspBeat.dataBeat preamble2 .preamble]

/-- The opening of a frame: T, the toggle flipped, the accumulator at T, five beats. -/
theorem startFrame_ok {s : State} (h : s.pgPhase = false) (o : Byte) :
    startFrame o s = .ok { s with
      toggle := !s.toggle
      acc := transmitted s.toggle o
      rspOut := s.rspOut ++ preambleBeats ++ pairBeats .opcode (transmitted s.toggle o)
      pgHold := transmitted s.toggle o } := by
  show pgPair _ _ _ = _
  rw [pgPair_ok (by simpa [emitPreamble] using h)]
  simp [emitPreamble, emit, caAdd, caClear, preambleBeats, pairBeats]

/-- One parameter: added to the accumulator, two beats. -/
theorem addParam_ok {s : State} (h : s.pgPhase = false) (p : Byte) :
    addParam p s = .ok { s with
      acc := s.acc + p, rspOut := s.rspOut ++ pairBeats .param p, pgHold := p } := by
  rw [addParam, pgPair_ok (by simpa using h)]
  simp [caAdd, pairBeats]

/-- All parameters: the accumulator has their sum, and their beats stand in order. -/
theorem addParams_ok (ps : List Byte) {s : State} (h : s.pgPhase = false) :
    addParams ps s = .ok { s with
      acc := ps.foldl (· + ·) s.acc
      rspOut := s.rspOut ++ ps.flatMap (pairBeats .param)
      pgHold := ps.getLastD s.pgHold } := by
  induction ps generalizing s with
  | nil => simp [addParams]
  | cons p ps ih =>
    rw [addParams, addParam_ok h, ok_bind, ih (by simpa using h)]
    simp [List.getLast?_cons]

/-- The checksum pair: two beats, the accumulator kept. -/
theorem endFrame_ok {s : State} (h : s.pgPhase = false) :
    endFrame s = .ok { s with
      rspOut := s.rspOut ++ pairBeats .checksum s.acc, pgHold := s.acc } := by
  rw [endFrame, pgPair_ok h]; rfl

/-- The checksum pair and the trailer OK. -/
theorem finishFrame_ok {s : State} (h : s.pgPhase = false) :
    finishFrame s = .ok { s with
      rspOut := s.rspOut ++ pairBeats .checksum s.acc ++ [RspBeat.trailer statusOk], pgHold := s.acc } := by
  rw [finishFrame, endFrame_ok h]; rfl

/-- The whole response of a Command, as the primitives of R111 produce it. -/
theorem runCommand_ok {s : State} (h : s.pgPhase = false) (c : Command) :
    runCommand c s = .ok { s with
      toggle := !s.toggle
      acc := c.params.foldl (· + ·) (transmitted s.toggle c.opcode)
      rspOut := s.rspOut ++ preambleBeats ++ pairBeats .opcode (transmitted s.toggle c.opcode) ++
        c.params.flatMap (pairBeats .param) ++
        pairBeats .checksum (c.params.foldl (· + ·) (transmitted s.toggle c.opcode)) ++
        [RspBeat.trailer statusOk]
      pgHold := c.params.foldl (· + ·) (transmitted s.toggle c.opcode) } := by
  rw [runCommand, startFrame_ok h, ok_bind, addParams_ok _ (by simpa using h), ok_bind,
    finishFrame_ok (by simpa using h)]

/-! ## The frame read by index -/

theorem readByte_ok {f : List Byte} {i : Nat} (h : i < f.length) : readByte f i = .ok f[i] := by
  simp [readByte, List.getElem?_eq_getElem h]

/-- What FD.CHECKLEN answers. -/
theorem checkLen_eq_some {len n : Nat} : checkLen len = some n ↔ len = 7 + 2 * n := by
  unfold checkLen minFrame
  split
  · simp; omega
  · split
    · simp; omega
    · simp; omega

theorem checkLen_eq_none {len : Nat} : checkLen len = none ↔ len < 7 ∨ len % 2 = 0 := by
  unfold checkLen minFrame
  split
  · simp; omega
  · split
    · simp; omega
    · simp; omega

/-- Pairs read inside the frame: no fault, and `n` of them. -/
theorem readPairs_ok (f : List Byte) (i n : Nat) (h : i + 2 * n ≤ f.length) :
    ∃ ps, readPairs f i n = .ok ps ∧ ps.length = n ∧
      ∀ k, k < n → ps[k]? = some (f.getD (i + 2 * k) 0, f.getD (i + 2 * k + 1) 0) := by
  induction n generalizing i with
  | zero => exact ⟨[], rfl, rfl, by simp⟩
  | succ n ih =>
    obtain ⟨ps, hps, hl, hk⟩ := ih (i + 2) (by omega)
    refine ⟨(f[i], f[i + 1]) :: ps, ?_, by simp [hl], ?_⟩
    · rw [readPairs, readByte_ok (by omega), readByte_ok (by omega), hps]; simp
    · intro k hlt
      cases k with
      | zero =>
        have h0 : i < f.length := by omega
        have h1 : i + 1 < f.length := by omega
        simp [h0, h1]
      | succ k =>
        rw [List.getElem?_cons_succ, hk k (by omega)]
        simp only [show i + 2 + 2 * k = i + 2 * (k + 1) by omega]

/-- Values added inside the frame: no fault, and the accumulator has their sum on top. -/
theorem addValues_ok (f : List Byte) (i n : Nat) (s : State) (h : i + 2 * n ≤ f.length + 1) :
    addValues f i n s = .ok { s with
      acc := ((List.range n).map fun k => f.getD (i + 2 * k) 0).foldl (· + ·) s.acc } := by
  induction n generalizing i s with
  | zero => simp [addValues]
  | succ n ih =>
    have hi : i < f.length := by omega
    rw [addValues, readByte_ok hi, ok_bind, ih (i + 2) _ (by omega)]
    have hf : (fun k => f.getD (i + 2 + 2 * k) 0) = (fun k => f.getD (i + 2 * k) 0) ∘ Nat.succ := by
      funext k; simp only [Function.comp, show i + 2 + 2 * k = i + 2 * k.succ by omega]
    simp only [List.range_succ_eq_map, List.map_cons, List.map_map, List.foldl_cons, hf]
    simp [hi, Function.comp_def, caAdd]

/-! ## Transactions -/

/-- Everything a whole transaction can do. -/
theorem transact_inv {op : OpSel} {body : State → Except Fault State} {s t : State}
    (h : transact op body s = .next t) :
    ∃ u, body (openTransaction op.code s) = .ok u ∧ t = deliverAll (closeRequest u) := by
  unfold transact at h
  split at h
  · rename_i u hu; exact ⟨u, hu, (Host.Outcome.next.inj h).symm⟩
  · cases h

theorem transact_ok {op : OpSel} {body : State → Except Fault State} {s u : State}
    (h : body (openTransaction op.code s) = .ok u) :
    transact op body s = .next (deliverAll (closeRequest u)) := by
  simp [transact, h]

@[simp] theorem ofCode_code (op : OpSel) : OpSel.ofCode op.code = op := by cases op <;> rfl

@[simp] theorem code_ofCode (c : BitVec 3) : (OpSel.ofCode c).code = c := by
  have h : ∀ c : BitVec 3, (OpSel.ofCode c).code = c := by decide
  exact h c

/-! ## One clock edge -/

/-- Everything the moving of a response beat can do. -/
theorem giveBeat_cases (s : State) :
    (s.rspOut = [] ∧ giveBeat s = s) ∨
    ∃ b r, s.rspOut = b :: r ∧
      giveBeat s = { s with rspOut := r, delivered := s.delivered ++ [b], busy := s.busy && !b.last } := by
  unfold giveBeat
  cases h : s.rspOut with
  | nil => exact .inl ⟨rfl, rfl⟩
  | cons b r => exact .inr ⟨b, r, rfl, rfl⟩

/-- Everything the moving of a request beat can do. -/
theorem takeBeat_inv {b : ReqBeat} {s t : State} (h : takeBeat b s = .next t) :
    (s.busy = true ∧ beyondMaxLen s = false ∧
      ∃ u, payloadWork b s = .ok u ∧ finishIfLast b.last u = .ok t) ∨
    (s.busy = false ∧ ∃ u, headerWork b (openTransaction b.op s) = .ok u ∧ finishIfLast b.last u = .ok t) := by
  have key : ∀ x : Except Fault State, ∀ k : State → Except Fault State,
      toOutcome (x >>= k) = .next t → ∃ u, x = .ok u ∧ k u = .ok t := by
    intro x k hx
    cases x with
    | error e => cases hx
    | ok u =>
      refine ⟨u, rfl, ?_⟩
      change toOutcome (k u) = _ at hx
      cases hk : k u with
      | error e => rw [hk] at hx; cases hx
      | ok v => rw [hk] at hx; cases hx; rfl
  unfold takeBeat at h
  cases hb : s.busy with
  | true =>
    rw [hb, if_pos rfl] at h
    cases hm : beyondMaxLen s with
    | true => rw [hm, if_pos rfl] at h; cases h
    | false =>
      rw [hm] at h
      exact .inl ⟨rfl, rfl, key _ _ h⟩
  | false =>
    rw [hb] at h
    exact .inr ⟨rfl, key _ _ h⟩

/-- Everything a clock edge can do. -/
theorem clockEdge_inv {p : Pins} {s t : State} (h : clockEdge p s = .next t) :
    (p.rst = true ∧ t = resetEdge s) ∨
    (p.rst = false ∧ ∃ u, (if requestMoves p s then takeBeat p.req s else .next s) = .next u ∧
      t = retime p s (if responseMoves p s then giveBeat u else u)) := by
  unfold clockEdge at h
  cases hr : p.rst with
  | true => rw [hr, if_pos rfl] at h; exact .inl ⟨rfl, (Host.Outcome.next.inj h).symm⟩
  | false =>
    rw [hr] at h
    refine .inr ⟨rfl, ?_⟩
    simp only [Bool.false_eq_true, if_false, requestSide] at h
    split at h
    · rename_i u hu; exact ⟨u, hu, (Host.Outcome.next.inj h).symm⟩
    · cases h
    · cases h

end Sys2Proof.Machine
end

