-- ==== Sys2Proof/Laws/PerInstr.lean ====
section
/-! SUPPORT. Families of facts about the operations as syntax, one lemma per constructor of Instr. -/

namespace Sys2Proof.Laws

/-- The operation an instruction is. -/
def selects : Instr → OpSel
  | .encode _ _ => .encode
  | .ping => .ping
  | .stopAll => .stopAll
  | .beep => .beep
  | .motorOn _ => .motorOn
  | .motorOff _ => .motorOff
  | .decode _ => .decode
  | .validate _ => .validate

/-- Payload beats after a header form a whole request exactly when the header says whether there are any. -/
theorem wholeRequest_request (op : OpSel) (d : Byte) (bs : List Byte) : wholeRequest (request op d bs) = true := by
  have tail : ∀ (b : Byte) (r : List Byte), wholeRequest (payloadBeats (b :: r)) = true := by
    intro b r
    induction r generalizing b with
    | nil => rfl
    | cons c r ih =>
      cases r with
      | nil => rfl
      | cons d r => exact ih c
  cases bs with
  | nil => rfl
  | cons b r =>
    have h := tail b r
    cases r with
    | nil => rfl
    | cons c r => exact h

end Sys2Proof.Laws

namespace Sys2Proof.Laws.WholeRequest

/-- The request of an instruction is whole and its header selects that instruction (R40, R74, R75). -/
def Statement (i : Instr) : Prop :=
  wholeRequest (encodeRequest i) = true ∧ (encodeRequest i).head?.map ReqBeat.op = some (selects i).code

theorem encode (o : Byte) (ps : List Byte) : Statement (.encode o ps) := ⟨wholeRequest_request _ _ _, rfl⟩
theorem ping : Statement .ping := ⟨rfl, rfl⟩
theorem stopAll : Statement .stopAll := ⟨rfl, rfl⟩
theorem beep : Statement .beep := ⟨rfl, rfl⟩
theorem motorOn (m : Byte) : Statement (.motorOn m) := ⟨rfl, rfl⟩
theorem motorOff (m : Byte) : Statement (.motorOff m) := ⟨rfl, rfl⟩
theorem decode (f : List Byte) : Statement (.decode f) := ⟨wholeRequest_request _ _ _, rfl⟩
theorem validate (f : List Byte) : Statement (.validate f) := ⟨wholeRequest_request _ _ _, rfl⟩

end Sys2Proof.Laws.WholeRequest
end

