-- ==== Sys2Proof/Laws/Port.lean ====
section
/-! SUPPORT. What each piece of work of the port level does, said once, from `pg_phase = 0`: none of it stops, and
each is a record update whose new response beats are all legal. -/

namespace Sys2Proof.Machine

/-- Legal data beats: no trailer among them. -/
abbrev DataBeats (r : List RspBeat) : Prop := ∀ b ∈ r, b.last = false ∧ b.legal = true

theorem dataBeats_nil : DataBeats [] := by intro b hb; cases hb

theorem DataBeats.append {r q : List RspBeat} (hr : DataBeats r) (hq : DataBeats q) : DataBeats (r ++ q) := by
  intro b hb
  rcases List.mem_append.1 hb with h | h
  · exact hr b h
  · exact hq b h

theorem dataBeat_legal (b : Byte) {k : Kind} (hk : k ≠ .trailer) : (RspBeat.dataBeat b k).legal = true := by
  cases k <;> first | exact absurd rfl hk | rfl

theorem classify_ne_trailer (i len : Nat) : classify i len ≠ .trailer := by
  unfold classify; repeat' split
  all_goals simp

theorem dataBeats_tagFrom (len i : Nat) (f : List Byte) : DataBeats (tagFrom len i f) := by
  induction f generalizing i with
  | nil => exact dataBeats_nil
  | cons x f ih =>
    intro b hb
    rcases List.mem_cons.1 hb with rfl | hb
    · exact ⟨rfl, dataBeat_legal x (classify_ne_trailer i len)⟩
    · exact ih _ b hb

theorem dataBeats_pair (k : ValueKind) (b : Byte) : DataBeats (pairBeats k b) := by
  intro x hx
  simp only [pairBeats, List.mem_cons, List.not_mem_nil, or_false] at hx
  rcases hx with rfl | rfl <;> cases k <;> exact ⟨rfl, rfl⟩

theorem dataBeats_preamble : DataBeats preambleBeats := by
  intro x hx
  simp only [preambleBeats, List.mem_cons, List.not_mem_nil, or_false] at hx
  rcases hx with rfl | rfl | rfl <;> exact ⟨rfl, rfl⟩

theorem dataBeats_params (ps : List Byte) : DataBeats (ps.flatMap (pairBeats .param)) := by
  intro x hx
  obtain ⟨p, _, h⟩ := List.mem_flatMap.1 hx
  exact dataBeats_pair _ _ x h

/-! ## The decoder never stops -/

/-- DECODE as a function answers for every frame: MalformedFrame exactly where FD.CHECKLEN says so. -/
theorem decodeFrame_total (f : List Byte) :
    (checkLen f.length = none ∧ decodeFrame f = .ok (.error .malformedFrame)) ∨
    ∃ n d, checkLen f.length = some n ∧ decodeFrame f = .ok (.ok d) := by
  cases hc : checkLen f.length with
  | none => exact .inl ⟨rfl, by simp [decodeFrame, hc]⟩
  | some n =>
    have hl := checkLen_eq_some.1 hc
    obtain ⟨ps, hp, -, -⟩ := readPairs_ok f 5 n (by omega)
    refine .inr ⟨n, ⟨(f[0], f[1], f[2]), f[3], f[4], ps, f[f.length - 2], f[f.length - 1]⟩, rfl, ?_⟩
    simp [decodeFrame, hc, hp, readByte_ok (f := f) (i := 0) (by omega), readByte_ok (f := f) (i := 1) (by omega),
      readByte_ok (f := f) (i := 2) (by omega), readByte_ok (f := f) (i := 3) (by omega),
      readByte_ok (f := f) (i := 4) (by omega), readByte_ok (f := f) (i := f.length - 2) (by omega),
      readByte_ok (f := f) (i := f.length - 1) (by omega)]

/-- VALIDATE as a function answers for every frame, and writes nothing but `acc`. -/
theorem validateFrame_total (f : List Byte) (s : State) :
    ∃ r a, validateFrame f s = .ok (r, { s with acc := a }) := by
  cases hc : checkLen f.length with
  | none => exact ⟨.malformedFrame, s.acc, by simp only [validateFrame, hc]⟩
  | some n =>
    have hl := checkLen_eq_some.1 hc
    obtain ⟨ps, hp, -, -⟩ := readPairs_ok f 3 (n + 2) (by omega)
    have h3 : preLen = 3 := rfl
    simp only [validateFrame, hc, h3, hp, ok_bind, pure_eq_ok]
    split
    · exact ⟨_, s.acc, rfl⟩
    · rw [readByte_ok (by omega), ok_bind, addValues_ok f 5 n _ (by omega), ok_bind, readByte_ok (by omega),
        ok_bind]
      split <;> exact ⟨_, _, rfl⟩

/-- Everything DECODE with its response does. -/
theorem runDecode_ok (f : List Byte) (s : State) : ∃ r st,
    runDecode f s = .ok { s with rspOut := s.rspOut ++ (r ++ [RspBeat.trailer st]) } ∧ DataBeats r ∧
      st.toNat ≤ 4 := by
  rcases decodeFrame_total f with ⟨-, h⟩ | ⟨n, d, -, h⟩
  · exact ⟨[], 1#3, by simp only [runDecode, h, ok_bind, pure_eq_ok]; rfl, dataBeats_nil, by decide⟩
  · refine ⟨taggedFrame d.bytes, statusOk, ?_, dataBeats_tagFrom _ _ _, by decide⟩
    simp only [runDecode, h, ok_bind, pure_eq_ok, sendTrailer, emitAll, List.append_assoc]

/-- Everything VALIDATE with its response does. -/
theorem runValidate_ok (f : List Byte) (s : State) : ∃ a st,
    runValidate f s = .ok { s with acc := a, rspOut := s.rspOut ++ [RspBeat.trailer st] } ∧ st.toNat ≤ 4 := by
  obtain ⟨r, a, h⟩ := validateFrame_total f s
  simp only [runValidate, h, ok_bind, pure_eq_ok]
  cases r
  · exact ⟨a, 0#3, rfl, by decide⟩
  · exact ⟨a, 1#3, rfl, by decide⟩
  · exact ⟨a, 2#3, rfl, by decide⟩
  · exact ⟨a, 3#3, rfl, by decide⟩

/-! ## The work at the beats of a request -/

/-- Everything the header beat of a catalog operation does: the frame begun with all its parameters and the toggle
flipped, or the error kept and nothing else. -/
theorem openAction_ok {s : State} (h : s.pgPhase = false) (a : Action) (m : Byte) :
    (∃ c, catalog s.cfg a m = .ok c ∧
      openAction a m s = .ok { s with
        toggle := !s.toggle
        acc := c.params.foldl (· + ·) (transmitted s.toggle c.opcode)
        pgHold := c.params.getLastD (transmitted s.toggle c.opcode)
        rspOut := s.rspOut ++ preambleBeats ++ pairBeats .opcode (transmitted s.toggle c.opcode) ++
          c.params.flatMap (pairBeats .param) }) ∨
    ((a = .motorOn ∨ a = .motorOff) ∧ s.cfg.nMotors ≤ m.toNat ∧
      openAction a m s = .ok { s with errLat := some .invalidMotorIndex }) := by
  have ok : ∀ c, catalog s.cfg a m = .ok c → openAction a m s = .ok { s with
        toggle := !s.toggle
        acc := c.params.foldl (· + ·) (transmitted s.toggle c.opcode)
        pgHold := c.params.getLastD (transmitted s.toggle c.opcode)
        rspOut := s.rspOut ++ preambleBeats ++ pairBeats .opcode (transmitted s.toggle c.opcode) ++
          c.params.flatMap (pairBeats .param) } := by
    intro c hc
    simp only [openAction, hc, startFrame_ok h, ok_bind]
    rw [addParams_ok _ (by simpa using h)]
  cases a with
  | ping => exact .inl ⟨_, rfl, ok _ rfl⟩
  | stopAll => exact .inl ⟨_, rfl, ok _ rfl⟩
  | beep => exact .inl ⟨_, rfl, ok _ rfl⟩
  | motorOn =>
    by_cases hm : s.cfg.nMotors ≤ m.toNat
    · exact .inr ⟨.inl rfl, hm, by simp [openAction, catalog, hm]⟩
    · have hc : catalog s.cfg .motorOn m = .ok ⟨opMotor, [motorParam flagOn m]⟩ := by simp [catalog, hm]
      exact .inl ⟨_, hc, ok _ hc⟩
  | motorOff =>
    by_cases hm : s.cfg.nMotors ≤ m.toNat
    · exact .inr ⟨.inr rfl, hm, by simp [openAction, catalog, hm]⟩
    · have hc : catalog s.cfg .motorOff m = .ok ⟨opMotor, [motorParam flagOff m]⟩ := by simp [catalog, hm]
      exact .inl ⟨_, hc, ok _ hc⟩

/-- Everything a payload beat does: a parameter of ENCODE is sent, a frame byte of DECODE or VALIDATE is kept, and
stray payload of a catalog operation does nothing. -/
theorem payloadWork_ok {s : State} (h : s.pgPhase = false) (b : ReqBeat) :
    (OpSel.ofCode s.opLat = .encode ∧ payloadWork b s = .ok { s with
      acc := s.acc + b.data, rspOut := s.rspOut ++ pairBeats .param b.data, pgHold := b.data }) ∨
    (s.collects = true ∧ payloadWork b s = .ok { s with frameBuf := s.frameBuf ++ [b.data] }) ∨
    (OpSel.ofCode s.opLat ≠ .encode ∧ s.collects = false ∧ payloadWork b s = .ok s) := by
  cases ho : OpSel.ofCode s.opLat
  · exact .inl ⟨rfl, by simp [payloadWork, ho, addParam_ok h]⟩
  iterate 5 exact .inr (.inr ⟨by simp, by simp [State.collects, ho], by simp [payloadWork, ho]⟩)
  iterate 2 exact .inr (.inl ⟨by simp [State.collects, ho], by simp [payloadWork, ho]⟩)

/-- Everything the end of a request does: data beats and the one trailer; beside the response, `acc` and `pg_hold`
only. -/
theorem finishWork_ok {s : State} (h : s.pgPhase = false) : ∃ r st a p,
    finishWork s = .ok { s with acc := a, pgHold := p, rspOut := s.rspOut ++ (r ++ [RspBeat.trailer st]) } ∧
      DataBeats r ∧ st.toNat ≤ 4 := by
  have enc : ∃ r st a p, finishEncode s =
      .ok { s with acc := a, pgHold := p, rspOut := s.rspOut ++ (r ++ [RspBeat.trailer st]) } ∧
        DataBeats r ∧ st.toNat ≤ 4 := by
    cases he : s.errLat with
    | none =>
      refine ⟨pairBeats .checksum s.acc, statusOk, s.acc, s.acc, ?_, dataBeats_pair _ _, by decide⟩
      simp [finishEncode, he, finishFrame_ok h]
    | some e =>
      refine ⟨[], e.code, s.acc, s.pgHold, ?_, dataBeats_nil, by cases e <;> decide⟩
      simp [finishEncode, he, raiseError, sendTrailer]
  cases ho : OpSel.ofCode s.opLat
  iterate 6 (simp only [finishWork, ho]; exact enc)
  · obtain ⟨r, st, h1, h2⟩ := runDecode_ok s.frameBuf s
    exact ⟨r, st, s.acc, s.pgHold, by simp only [finishWork, ho]; exact h1, h2⟩
  · obtain ⟨a, st, h1, h2⟩ := runValidate_ok s.frameBuf s
    exact ⟨[], st, a, s.pgHold, by simp only [finishWork, ho]; exact h1, dataBeats_nil, h2⟩

/-! ## Runs of edges -/

theorem firstEdges_zero (drive : Nat → Pins) : firstEdges drive 0 = [] := rfl

theorem firstEdges_succ (drive : Nat → Pins) (n : Nat) :
    firstEdges drive (n + 1) = firstEdges drive n ++ [drive n] := by simp [firstEdges, List.range_succ]

/-- One edge more at the end of a run. -/
theorem runEdges_snoc {ps : List Pins} {p : Pins} {s t : State} (h : runEdges ps s = .next t) :
    runEdges (ps ++ [p]) s = clockEdge p t := by
  induction ps generalizing s with
  | nil =>
    cases h
    simp only [List.nil_append, runEdges]
    cases clockEdge p t <;> rfl
  | cons q ps ih =>
    simp only [List.cons_append, runEdges] at h ⊢
    cases hq : clockEdge q s with
    | next u => rw [hq] at h; exact ih h
    | fault e => rw [hq] at h; cases h
    | refused r => rw [hq] at h; cases h

/-- What has moved after one edge more. -/
theorem movedBeats_snoc {ps : List Pins} {p : Pins} {s t : State} (h : runEdges ps s = .next t) :
    movedBeats (ps ++ [p]) s = movedBeats ps s ++ (if requestMoves p t then [p.req] else []) := by
  induction ps generalizing s with
  | nil =>
    cases h
    simp only [List.nil_append, movedBeats]
    cases clockEdge p t <;> simp
  | cons q ps ih =>
    simp only [List.cons_append, runEdges, movedBeats] at h ⊢
    cases hq : clockEdge q s with
    | next u => rw [hq] at h; simp only [List.append_assoc]; rw [← ih h]
    | fault e => rw [hq] at h; cases h
    | refused r => rw [hq] at h; cases h

end Sys2Proof.Machine
end

