-- ==== Sys2Proof/Tests/Slice0.lean ====
section
/-! SUPPORT. Checks of the model on small cases: what the well-formedness checks refuse, words written out from the
spec's encodings, vectors of 95_test_vectors.md, and for every statement with hypotheses a case that meets them. -/

namespace Sys2Proof.Tests

open Sys2Proof Sys2Proof.Machine

/-! ## What the checks refuse -/

theorem test_config_refuses_no_motor : Config.wf { nMotors := 0 } = false := by decide
theorem test_config_refuses_seven_motors : Config.wf { nMotors := 7 } = false := by decide
theorem test_config_takes_one_and_six_motors :
    Config.wf { nMotors := 1 } = true ∧ Config.wf { nMotors := 6 } = true := by decide
theorem test_config_refuses_short_limit : Config.wf { maxDecodeLen := some 6 } = false := by decide
theorem test_config_takes_limit_seven : Config.wf { maxDecodeLen := some 7 } = true := by decide
theorem test_fits_refuses_eight_above_seven :
    Config.fits { maxDecodeLen := some 7 } 8 = false ∧ Config.fits { maxDecodeLen := some 7 } 7 = true := by decide
theorem test_wf_refuses_decode_above_limit :
    (Instr.decode (List.replicate 8 0x00#8)).wf { maxDecodeLen := some 7 } = false ∧
    (Instr.validate (List.replicate 8 0x00#8)).wf { maxDecodeLen := some 7 } = true := by decide
theorem test_request_refuses_no_beat : decodeRequest [] = .error .noBeat ∧ wholeRequest [] = false := by
  exact ⟨rfl, rfl⟩
theorem test_request_refuses_unfinished :
    decodeRequest [⟨1#3, 0x00#8, false⟩] = .error .unfinished ∧ wholeRequest [⟨1#3, 0x00#8, false⟩] = false := by
  exact ⟨rfl, rfl⟩
theorem test_request_refuses_beat_after_last :
    decodeRequest [⟨1#3, 0x00#8, true⟩, ⟨1#3, 0x00#8, true⟩] = .error .beatAfterLast ∧
    wholeRequest [⟨1#3, 0x00#8, true⟩, ⟨1#3, 0x00#8, true⟩] = false := by
  exact ⟨rfl, rfl⟩

/-! ## Words written out (R74, R75, R81; the layout of a table word is log 9) -/

theorem test_decode_encode :
    decodeRequest [⟨0b000#3, 0b01010001#8, false⟩, ⟨0b000#3, 0b00000001#8, true⟩] = .ok (.encode 0x51#8 [0x01#8]) :=
  rfl
theorem test_decode_ping : decodeRequest [⟨0b001#3, 0b00000000#8, true⟩] = .ok .ping := rfl
theorem test_decode_stop_all : decodeRequest [⟨0b010#3, 0b00000000#8, true⟩] = .ok .stopAll := rfl
theorem test_decode_beep : decodeRequest [⟨0b011#3, 0b00000000#8, true⟩] = .ok .beep := rfl
theorem test_decode_motor_on : decodeRequest [⟨0b100#3, 0b00000001#8, true⟩] = .ok (.motorOn 0x01#8) := rfl
theorem test_decode_motor_off : decodeRequest [⟨0b101#3, 0b00000010#8, true⟩] = .ok (.motorOff 0x02#8) := rfl
theorem test_decode_decode :
    decodeRequest [⟨0b110#3, 0b00000000#8, false⟩, ⟨0b000#3, 0b01010101#8, true⟩] = .ok (.decode [0x55#8]) := rfl
theorem test_decode_validate :
    decodeRequest [⟨0b111#3, 0b00000000#8, false⟩, ⟨0b000#3, 0b11111111#8, true⟩] = .ok (.validate [0xFF#8]) := rfl
theorem test_table_words :
    (List.range 8).map (decodeTableWord 8) =
      [some (.encode 0x00#8 []), some .ping, some .stopAll, some .beep, some (.motorOn 0x00#8),
        some (.motorOff 0x00#8), some (.decode []), some (.validate [])] := by decide

/-! ## Operations on vectors of 95_test_vectors.md -/

/-- What an outcome shows: the toggle, the data bytes handed over, and the statuses of the trailers. -/
def seen : Host.Outcome State Fault Refusal → Option (Bool × List Byte × List (BitVec 3))
  | .next s => some (s.toggle, (s.delivered.filter fun b => !b.last).map RspBeat.data,
      (s.delivered.filter RspBeat.last).map RspBeat.status)
  | _ => none

/-- Reset and then toggled once, with leftovers in the datapath registers (R12, R13). -/
def toggled : State := { State.reset with toggle := true, acc := 0x9C#8, pgHold := 0x3A#8, opLat := 5#3 }

/-- An instance with the other end of both parameter ranges (R7). -/
def sixMotors : State := { State.reset with cfg := { nMotors := 6, maxDecodeLen := some 7 } }

/-- The PING frame of toggle 0 (2.3). -/
def pingFrame : List Byte := [0x55#8, 0xFF#8, 0x00#8, 0x10#8, 0xEF#8, 0x10#8, 0xEF#8]

/-- Row `0xF7`, `[0x09]`, `t = 1` of 2.2: the toggle carries through the checksum. -/
theorem test_encode_wraps : seen (exec (.encode 0xF7#8 [0x09#8]) toggled) =
    some (false, [0x55#8, 0xFF#8, 0x00#8, 0xFF#8, 0x00#8, 0x09#8, 0xF6#8, 0x08#8, 0xF7#8], [0#3]) := by decide

/-- The parameters stand in order (row `0xFF`, `[0xFF, 0x02]` of 2.2), as tagged beats. -/
theorem test_encode_tags : (match exec (.encode 0xFF#8 [0xFF#8, 0x02#8]) State.reset with
      | .next s => s.delivered.map fun b => (b.data, b.kind)
      | _ => []) =
    [(0x55#8, 0#3), (0xFF#8, 0#3), (0x00#8, 0#3), (0xFF#8, 1#3), (0x00#8, 2#3), (0xFF#8, 3#3), (0x00#8, 4#3),
      (0x02#8, 3#3), (0xFD#8, 4#3), (0x00#8, 5#3), (0xFF#8, 6#3), (0x00#8, 7#3)] := by decide

theorem test_ping : seen (exec .ping State.reset) = some (true, pingFrame, [0#3]) := by decide

theorem test_stop_all : seen (exec .stopAll toggled) =
    some (false, [0x55#8, 0xFF#8, 0x00#8, 0x58#8, 0xA7#8, 0x58#8, 0xA7#8], [0#3]) := by decide

/-- S1 and S2, the source's two calls. -/
theorem test_beep :
    seen (exec .beep State.reset) =
      some (true, [0x55#8, 0xFF#8, 0x00#8, 0x51#8, 0xAE#8, 0x01#8, 0xFE#8, 0x52#8, 0xAD#8], [0#3]) ∧
    seen (exec .beep toggled) =
      some (false, [0x55#8, 0xFF#8, 0x00#8, 0x59#8, 0xA6#8, 0x01#8, 0xFE#8, 0x5A#8, 0xA5#8], [0#3]) := by decide

theorem test_motor_on : seen (exec (.motorOn 0x02#8) State.reset) =
    some (true, [0x55#8, 0xFF#8, 0x00#8, 0x21#8, 0xDE#8, 0x84#8, 0x7B#8, 0xA5#8, 0x5A#8], [0#3]) := by decide

theorem test_motor_on_rejected : seen (exec (.motorOn 0x03#8) toggled) = some (true, [], [4#3]) := by decide

theorem test_motor_off : seen (exec (.motorOff 0x01#8) toggled) =
    some (false, [0x55#8, 0xFF#8, 0x00#8, 0x29#8, 0xD6#8, 0x42#8, 0xBD#8, 0x6B#8, 0x94#8], [0#3]) := by decide

theorem test_motor_off_rejected : seen (exec (.motorOff 200#8) State.reset) = some (false, [], [4#3]) := by decide

/-- DECODE hands a frame back whatever its bytes (R121), here with a broken complement and a wrong checksum. -/
theorem test_decode_by_position :
    seen (exec (.decode [0x00#8, 0x01#8, 0x02#8, 0x10#8, 0xEE#8, 0x11#8, 0x00#8]) toggled) =
      some (true, [0x00#8, 0x01#8, 0x02#8, 0x10#8, 0xEE#8, 0x11#8, 0x00#8], [0#3]) := by decide

/-- S5. -/
theorem test_decode_six_bytes :
    seen (exec (.decode [0x55#8, 0xFF#8, 0x00#8, 0x10#8, 0xEF#8, 0x10#8]) State.reset) =
      some (false, [], [1#3]) := by decide

/-- S6. -/
theorem test_validate_flipped_complement :
    seen (exec (.validate [0x55#8, 0xFF#8, 0x00#8, 0x10#8, 0xEF#8, 0x10#8, 0xEE#8]) toggled) =
      some (true, [], [2#3]) := by decide

/-- The row `VALIDATE [55 FF 00 10 EF 11 EE]` of 2.6. -/
theorem test_validate_wrong_checksum :
    seen (exec (.validate [0x55#8, 0xFF#8, 0x00#8, 0x10#8, 0xEF#8, 0x11#8, 0xEE#8]) State.reset) =
      some (false, [], [3#3]) := by decide

/-- 2.7: a reset with a transaction in flight, its first beat already moved. -/
theorem test_reset_in_flight :
    ∃ s t, takeBeat ⟨0b000#3, 0x51#8, false⟩ State.reset = .next s ∧
      clockEdge ⟨true, true, ⟨0b000#3, 0x01#8, true⟩, true⟩ (giveBeat s) = .next t ∧
      (s.toggle, s.busy, t.toggle, t.busy, t.rspOut, t.delivered) =
        (true, true, false, false, [], [RspBeat.dataBeat 0x55#8 .preamble]) :=
  ⟨_, _, rfl, rfl, rfl⟩

/-- The step on a table word runs its instruction as the first one after reset. -/
theorem test_step_runs_table_word (w : Fin 8) :
    ∃ i, decodeTableWord 8 w = some i ∧ step (State.reset.withFetchWord 8 w) = exec i State.reset := by
  revert w
  have h : ∀ w : Nat, w < 8 → ∃ i, decodeTableWord 8 w = some i ∧
      step (State.reset.withFetchWord 8 w) = exec i State.reset
    | 0, _ => ⟨_, rfl, rfl⟩
    | 1, _ => ⟨_, rfl, rfl⟩
    | 2, _ => ⟨_, rfl, rfl⟩
    | 3, _ => ⟨_, rfl, rfl⟩
    | 4, _ => ⟨_, rfl, rfl⟩
    | 5, _ => ⟨_, rfl, rfl⟩
    | 6, _ => ⟨_, rfl, rfl⟩
    | 7, _ => ⟨_, rfl, rfl⟩
    | n + 8, hn => absurd hn (by omega)
  exact fun w => h w w.isLt

/-! ## Cases that meet the hypotheses of the statements -/

/-- ComplementLaws has none; TransmittedOpcodeBitByBit at both ends and at bit 3. -/
theorem witness_bits : (0 < 8 ∧ 0 ≠ 3) ∧ (3 < 8 ∧ 3 = 3) ∧ (7 < 8 ∧ 7 ≠ 3) := by decide

theorem witness_ToggleApplyReadsThenFlips : (0x08#8).getLsbD 3 = true := by decide

theorem witness_PairGenerator : State.reset.pgPhase = false ∧ ({ toggled with pgPhase := true } : State).pgPhase = true := by
  decide

theorem witness_AccumulatorSumsModulo256 : [0xFF#8, 0x02#8].Perm [0x02#8, 0xFF#8] := List.Perm.swap _ _ _

/-- Each clause of LengthTestAcceptsOddFromSeven at its boundary. -/
theorem witness_LengthTest : (6 < 7) ∧ (7 ≤ 8 ∧ (8 - 7) % 2 ≠ 0) ∧ (7 ≤ 7 ∧ (7 - 7) % 2 = 0 ∧ 0 = (7 - 7) / 2) := by
  decide

/-- Each clause of ClassifyFollowsFieldTable at the ends of its range, for lengths 7 and 9. -/
theorem witness_Classify :
    (0 < 7 + 2 * 0 ∧ 0 ≤ 2) ∧ (2 < 7 + 2 * 0 ∧ 2 ≤ 2) ∧ (3 < 7 + 2 * 0) ∧ (4 < 7 + 2 * 0) ∧
    (5 < 7 + 2 * 1 ∧ 5 ≤ 5 ∧ 5 + 4 ≤ 7 + 2 * 1 ∧ 5 % 2 = 1) ∧ (6 < 7 + 2 * 1 ∧ 6 ≤ 6 ∧ 6 + 3 ≤ 7 + 2 * 1 ∧ 6 % 2 = 0) ∧
    (5 < 7 + 2 * 0 ∧ 5 + 2 = 7 + 2 * 0) ∧ (6 < 7 + 2 * 0 ∧ 6 + 1 = 7 + 2 * 0) := by decide

/-- MotorParameterBitByBit at the smallest and the largest index there can be, at the ends of the byte. -/
theorem witness_MotorParameter :
    (State.reset.cfg.wf = true ∧ (0x00#8).toNat < State.reset.cfg.nMotors) ∧
    (sixMotors.cfg.wf = true ∧ (0x05#8).toNat < sixMotors.cfg.nMotors) ∧ 0 < 8 ∧ 7 < 8 := by decide

/-- Every statement whose only hypothesis is an idle block: for both toggle values. -/
theorem witness_idle : State.reset.Idle ∧ toggled.Idle ∧ sixMotors.Idle := by decide

/-- ConsecutiveEncodesAlternate and ByteSumAndToggleIdentities (its frames: witness_good_pairs): opcodes with bit 3 at 1 and at 0. -/
theorem witness_bit_three : 0x59#8 &&& 0x08#8 ≠ 0x00#8 ∧ 0x51#8 &&& 0x08#8 = 0x00#8 := by decide

/-- MotorOnFrames, MotorOffFrames and the valid clause of CatalogOperationsExpandToEncode. -/
theorem witness_motor_valid :
    (State.reset.Idle ∧ (0x02#8).toNat < State.reset.cfg.nMotors) ∧
    (sixMotors.Idle ∧ (0x05#8).toNat < sixMotors.cfg.nMotors) := by decide

/-- RejectedMotorIndexChangesNothing and the invalid clause of CatalogOperationsExpandToEncode. -/
theorem witness_motor_invalid :
    (State.reset.Idle ∧ State.reset.cfg.nMotors ≤ (0x03#8).toNat) ∧
    (sixMotors.Idle ∧ sixMotors.cfg.nMotors ≤ (0xFF#8).toNat) := by decide

/-- DecodeReturnsTaggedFrame, DecodedFieldsStandAtTheirIndices: the shortest frame and one with a parameter. -/
theorem witness_well_formed_lengths :
    pingFrame.length = 7 + 2 * 0 ∧ (encodedFrame true 0x51#8 [0x01#8]).length = 7 + 2 * 1 := by decide

/-- MalformedLengthIsReported: the lengths next to the good ones. -/
theorem witness_malformed_lengths :
    (pingFrame.take 6).length < 7 ∧ (pingFrame ++ [0x00#8]).length % 2 = 0 ∧ ([] : List Byte).length < 7 := by decide

theorem witness_DecodeLosesNothing : checkLen pingFrame.length ≠ none ∧ ∃ d, decodeFrame pingFrame = .ok (.ok d) :=
  ⟨by decide, _, rfl⟩

/-- ValidateVerdicts: a broken pair at the first and at the last pair of the shortest frame. -/
theorem witness_broken_pair :
    brokenPair [0x55#8, 0xFF#8, 0x00#8, 0x10#8, 0xEE#8, 0x10#8, 0xEF#8] ∧
    brokenPair [0x55#8, 0xFF#8, 0x00#8, 0x10#8, 0xEF#8, 0x10#8, 0xEE#8] :=
  ⟨⟨3, by decide⟩, ⟨5, by decide⟩⟩

/-- ValidateVerdicts: no broken pair, once with the wrong checksum and once with the right one. -/
theorem witness_good_pairs :
    ((¬ brokenPair [0x55#8, 0xFF#8, 0x00#8, 0x10#8, 0xEF#8, 0x11#8, 0xEE#8]) ∧
      [0x55#8, 0xFF#8, 0x00#8, 0x10#8, 0xEF#8, 0x11#8, 0xEE#8].getD 5 0 ≠
        dueChecksum [0x55#8, 0xFF#8, 0x00#8, 0x10#8, 0xEF#8, 0x11#8, 0xEE#8] 0) ∧
    (¬ brokenPair pingFrame) ∧ pingFrame.getD 5 0 = dueChecksum pingFrame 0 := by
  have good : ∀ f : List Byte, f.length = 7 → (f[4]? = (f[3]?).map cpl) → (f[6]? = (f[5]?).map cpl) → ¬ brokenPair f := by
    rintro f hl h3 h5 ⟨i, a, b, c, d⟩
    have hi : i = 3 ∨ i = 5 := by omega
    rcases hi with rfl | rfl
    · exact d h3
    · exact d h5
  exact ⟨⟨good _ rfl rfl rfl, by decide⟩, good _ rfl rfl rfl, by decide⟩

/-- SingleBitFaultsAreDetected: the first and the last byte, the first and the last bit. -/
theorem witness_SingleBitFaults :
    (∃ t, validateFrame pingFrame State.reset = .ok (.valid, t)) ∧
    (3 ≤ 3 ∧ 3 < pingFrame.length ∧ 0 < 8) ∧ (3 ≤ 6 ∧ 6 < pingFrame.length ∧ 7 < 8) :=
  ⟨⟨_, rfl⟩, by decide⟩

theorem witness_ErrorsLeaveTheToggle :
    State.reset.Idle ∧ ∃ t, exec (.motorOn 0x03#8) State.reset = .next t ∧
      t.delivered = State.reset.delivered ++ [] ++ [RspBeat.trailer ErrorKind.invalidMotorIndex.code] ∧
      ErrorKind.invalidMotorIndex.code ≠ statusOk :=
  ⟨by decide, _, rfl, rfl, by decide⟩

theorem witness_LeftoverRegisters :
    toggled.Idle ∧ ({ State.reset with toggle := true } : State).Idle ∧
      toggled.cfg = ({ State.reset with toggle := true } : State).cfg ∧
      toggled.toggle = ({ State.reset with toggle := true } : State).toggle := by decide

theorem witness_ToggleCountsTheFlips : State.reset.Idle ∧ State.reset.toggle = false := by decide

/-- IgnoredSignalsMakeNoDifference: payload that differs in `req_op` only; a header with and without stray payload. -/
theorem witness_IgnoredSignals :
    ([⟨0#3, 0x01#8, true⟩] : List ReqBeat).map (fun b => (b.data, b.last)) =
      ([⟨7#3, 0x01#8, true⟩] : List ReqBeat).map (fun b => (b.data, b.last)) ∧
    wholeRequest [⟨1#3, 0xAB#8, true⟩] = true ∧ wholeRequest [⟨1#3, 0xAB#8, false⟩, ⟨2#3, 0x00#8, true⟩] = true := by
  decide

/-- Reset with a request offered, and an edge after it. -/
def asked (bs : List ReqBeat) : State :=
  { State.reset with inputs := bs.map .offer ++ [.edge ⟨false, false, ⟨0#3, 0x00#8, false⟩, true⟩] }

theorem witness_StepRunsTheDecodedRequest :
    (asked [⟨1#3, 0x00#8, true⟩]).busy = false ∧
      (asked [⟨1#3, 0x00#8, true⟩]).inputs =
        [⟨1#3, 0x00#8, true⟩].map .offer ++ [.edge ⟨false, false, ⟨0#3, 0x00#8, false⟩, true⟩] ∧
      decodeRequest [⟨1#3, 0x00#8, true⟩] = .ok .ping ∧
      Instr.wf (asked [⟨1#3, 0x00#8, true⟩]).cfg .ping = true := ⟨rfl, rfl, rfl, rfl⟩

theorem witness_StepsPerformRequestsInOrder :
    ({ State.reset with inputs := ([Instr.beep, .beep].flatMap encodeRequest).map .offer ++ [] } : State).Idle ∧
      ∀ i ∈ [Instr.beep, .beep], i.wf State.reset.cfg = true := by decide

theorem witness_DecodeBeyondTheLimit :
    ({ sixMotors with inputs := (encodeRequest (.decode (pingFrame ++ [0x00#8]))).map .offer } : State).busy = false ∧
      sixMotors.cfg.maxDecodeLen = some 7 ∧ 7 < (pingFrame ++ [0x00#8]).length := by decide

/-- A block that has taken a whole PING and has only the trailer left to send. -/
def sending : State :=
  { State.reset with toggle := true, busy := true, opLat := 1#3, rspOut := [RspBeat.trailer statusOk] }

/-- EveryStepKeepsTheInvariant and GoodStatesNeverStop: an operation, an edge and a transaction in flight. -/
theorem witness_EveryStepKeepsTheInvariant :
    ((asked [⟨1#3, 0x00#8, true⟩]).Inv ∧ ∃ t, step (asked [⟨1#3, 0x00#8, true⟩]) = .next t) ∧
    ((asked []).Inv ∧ ∃ t, step (asked []) = .next t) ∧ (sending.Inv ∧ ∃ t, step sending = .next t) :=
  ⟨⟨by decide, _, rfl⟩, ⟨by decide, _, rfl⟩, by decide, _, rfl⟩

/-- GoodStatesNeverStop, the refusal: a good state with a frame above the limit offered. -/
theorem witness_GoodStatesNeverStop :
    ({ sixMotors with inputs := (encodeRequest (.decode (pingFrame ++ [0x00#8]))).map .offer } : State).Inv ∧
      step { sixMotors with inputs := (encodeRequest (.decode (pingFrame ++ [0x00#8]))).map .offer } =
        .refused .decodeBeyondMaxLen := ⟨by decide, rfl⟩

theorem witness_ParametersStay : ∃ t, step sending = .next t := ⟨_, rfl⟩

theorem witness_WaitingChangesNothing :
    sending.inputs = [] ∧ (⟨false, false, ⟨0#3, 0x00#8, false⟩, false⟩ : Pins).rst = false ∧
      (⟨false, false, ⟨0#3, 0x00#8, false⟩, false⟩ : Pins).reqValid = false ∧
      (⟨false, false, ⟨0#3, 0x00#8, false⟩, false⟩ : Pins).rspReady = false := by decide

theorem witness_IdleBlockBecomesReady :
    ({ State.reset with reqStall := 2 } : State).Idle ∧ (⟨false, false, ⟨0#3, 0x00#8, false⟩, true⟩ : Pins).rst = false ∧
      (⟨false, false, ⟨0#3, 0x00#8, false⟩, true⟩ : Pins).reqValid = false := by decide

/-- ResetEdgeGivesTheResetValues and ResetDropsTheTransaction, with a transaction in flight: nothing offered next, and
a request offered next. -/
theorem witness_reset_edge :
    ((⟨true, false, ⟨0#3, 0x00#8, false⟩, false⟩ : Pins).rst = true ∧ sending.busy = true ∧ sending.inputs = []) ∧
      ({ sending with inputs := [⟨1#3, 0x00#8, true⟩].map .offer ++ [] } : State).inputs =
        [⟨1#3, 0x00#8, true⟩].map .offer ++ [] ∧
      decodeRequest [⟨1#3, 0x00#8, true⟩] = .ok .ping ∧ Instr.wf sending.cfg .ping = true :=
  ⟨⟨rfl, rfl, rfl⟩, rfl, rfl, rfl⟩

/-- OneBeatPerChannelPerEdge: an edge at which a request beat moves, and one at which a response beat does. -/
theorem witness_OneBeat :
    (requestMoves (offering ⟨1#3, 0x00#8, true⟩) State.reset = true ∧
      ∃ t, clockEdge (offering ⟨1#3, 0x00#8, true⟩) State.reset = .next t) ∧
    (responseMoves (offering ⟨1#3, 0x00#8, true⟩) sending = true ∧
      requestMoves (offering ⟨1#3, 0x00#8, true⟩) sending = false ∧ ∃ t, clockEdge (offering ⟨1#3, 0x00#8, true⟩) sending = .next t) :=
  ⟨⟨rfl, _, rfl⟩, rfl, rfl, _, rfl⟩

theorem witness_OfferedBeatIsHeld :
    (outputs ⟨false, false, ⟨0#3, 0x00#8, false⟩, false⟩ sending).rsp = some (RspBeat.trailer statusOk) ∧
      (⟨false, false, ⟨0#3, 0x00#8, false⟩, false⟩ : Pins).rspReady = false ∧
      (offering ⟨1#3, 0x00#8, true⟩).rst = false ∧
      ∃ t, clockEdge ⟨false, false, ⟨0#3, 0x00#8, false⟩, false⟩ sending = .next t := ⟨rfl, rfl, rfl, _, rfl⟩

/-- ToggleFlipsAtTheHeaderBeat: a header that moves on an idle block, and an edge in a transaction. -/
theorem witness_ToggleFlipsAtTheHeaderBeat :
    (State.reset.Inv ∧ (∃ t, clockEdge (offering ⟨0#3, 0x51#8, false⟩) State.reset = .next t) ∧
      requestMoves (offering ⟨0#3, 0x51#8, false⟩) State.reset = true ∧ State.reset.busy = false) ∧
    (sending.Inv ∧ ∃ t, clockEdge (offering ⟨0#3, 0x51#8, false⟩) sending = .next t) :=
  ⟨⟨by decide, ⟨_, rfl⟩, rfl, rfl⟩, by decide, _, rfl⟩

/-- BeatByBeatIsTheOperation: an operation with payload, on the limit. -/
theorem witness_BeatByBeat :
    sixMotors.Inv ∧ sixMotors.busy = false ∧ decodeRequest (encodeRequest (.decode pingFrame)) = .ok (.decode pingFrame) ∧
      (Instr.decode pingFrame).wf sixMotors.cfg = true := ⟨by decide, rfl, rfl, rfl⟩

/-- AnyInterleavingRefinesTheOperation and PromptHostEndsAnyTransaction: one edge, at which the header of an ENCODE moves; its payload is left. -/
theorem witness_AnyInterleaving :
    State.reset.Inv ∧ State.reset.busy = false ∧ (∀ p ∈ [offering ⟨0#3, 0x51#8, false⟩], p.rst = false) ∧
      (∃ t, runEdges [offering ⟨0#3, 0x51#8, false⟩] State.reset = .next t) ∧
      decodeRequest (movedBeats [offering ⟨0#3, 0x51#8, false⟩] State.reset ++ [⟨0#3, 0x01#8, true⟩]) =
        .ok (.encode 0x51#8 [0x01#8]) ∧ Instr.wf State.reset.cfg (.encode 0x51#8 [0x01#8]) = true :=
  ⟨by decide, rfl, by decide, ⟨_, rfl⟩, rfl, rfl⟩

/-- A host that asks for PING, with pauses before each response beat it takes, and goes on asking for more. -/
def pausing (n : Nat) : Pins := ⟨false, true, ⟨1#3, 0x00#8, true⟩, n % 2 == 1⟩

/-- The first PING moves at the first edge from reset. -/
theorem movedBefore_pausing (n : Nat) : 1 ≤ (movedBefore pausing State.reset (n + 1)).length := by
  have hf : firstEdges pausing (n + 1) = pausing 0 :: (List.range n).map fun k => pausing (k + 1) := by
    simp [firstEdges, List.range_succ_eq_map, Function.comp_def]
  have hm : requestMoves (pausing 0) State.reset = true := rfl
  obtain ⟨t, ht⟩ : ∃ t, clockEdge (pausing 0) State.reset = .next t := ⟨_, rfl⟩
  rw [movedBefore, hf, movedBeats, hm, ht]
  simp

/-- EveryTransactionEnds: a host that pauses and that goes on with further requests, on an idle block. -/
theorem witness_EveryTransactionEnds :
    State.reset.Inv ∧ State.reset.busy = false ∧ decodeRequest [⟨1#3, 0x00#8, true⟩] = .ok .ping ∧
      Instr.wf State.reset.cfg .ping = true ∧ KeepsDuties pausing [⟨1#3, 0x00#8, true⟩] State.reset := by
  have first : ∀ n, (movedBefore pausing State.reset n).length < 1 → n = 0 := by
    intro n hn
    cases n with
    | zero => rfl
    | succ n => have := movedBefore_pausing n; omega
  refine ⟨by decide, rfl, rfl, rfl, fun _ => rfl, ?_, fun n _ => ⟨n, Nat.le_refl n, rfl⟩, fun _ _ _ _ => rfl, ?_⟩
  · intro n hn _
    cases first n hn
    exact ⟨[], rfl⟩
  · intro n _ _ _
    refine ⟨2 * n + 1, by omega, ?_⟩
    show ((2 * n + 1) % 2 == 1) = true
    rw [beq_iff_eq]; omega

end Sys2Proof.Tests
end

section
/-! The decoder and the fetching of requests: exactly the whole lists of beats decode (R40), what the encoder writes
decodes to its operation (R74), and the host's next whole request is what a step takes (R46). -/

namespace Sys2Proof.Machine

/-! ## Whole requests -/

theorem requestForm_eq_ok_iff : ∀ bs : List ReqBeat, requestForm bs = .ok () ↔ wholeRequest bs = true
  | [] => by simp [requestForm, wholeRequest]
  | [b] => by cases hb : b.last <;> simp [requestForm, wholeRequest, hb]
  | b :: c :: r => by
    have ih := requestForm_eq_ok_iff (c :: r)
    cases hb : b.last <;> simp [requestForm, wholeRequest, hb, ih]

/-- What the decoder reads from a whole request: the header's code and operand, and the payload's bytes. -/
theorem decodeRequest_of_whole {b : ReqBeat} {ps : List ReqBeat} (h : wholeRequest (b :: ps) = true) :
    decodeRequest (b :: ps) = .ok (readRequest (OpSel.ofCode b.op) b.data (ps.map ReqBeat.data)) := by
  simp [decodeRequest, (requestForm_eq_ok_iff _).2 h]

theorem wholeRequest_of_decodeRequest {bs : List ReqBeat} {i : Instr} (h : decodeRequest bs = .ok i) :
    wholeRequest bs = true := by
  cases bs with
  | nil => cases h
  | cons b ps =>
    rw [← requestForm_eq_ok_iff]
    cases hf : requestForm (b :: ps) with
    | ok _ => rfl
    | error e => simp [decodeRequest, hf] at h

@[simp] theorem payloadBeats_map_data : ∀ ps : List Byte, (payloadBeats ps).map ReqBeat.data = ps
  | [] => rfl
  | [_] => rfl
  | b :: c :: r => congrArg (b :: ·) (payloadBeats_map_data (c :: r))

theorem decodeRequest_request (op : OpSel) (d : Byte) (ps : List Byte) :
    decodeRequest (request op d ps) = .ok (readRequest op d ps) := by
  have hwhole : wholeRequest (⟨op.code, d, ps.isEmpty⟩ :: payloadBeats ps) = true :=
    Laws.wholeRequest_request op d ps
  rw [request, decodeRequest_of_whole hwhole, ofCode_code, payloadBeats_map_data]

/-- The decoder undoes the encoder (R74). -/
theorem decodeRequest_encodeRequest (i : Instr) : decodeRequest (encodeRequest i) = .ok i := by
  cases i <;> exact decodeRequest_request _ _ _

/-! ## The host's next request -/

/-- A whole request offered next is fetched, no beat more and no beat less. -/
theorem fetchRequest_of_whole (rest : List HostInput) : ∀ {bs : List ReqBeat}, wholeRequest bs = true →
    fetchRequest (bs.map .offer ++ rest) = some (bs, rest)
  | [], h => by cases h
  | [b], h => by
    have hb : b.last = true := h
    simp [fetchRequest, hb]
  | b :: c :: r, h => by
    obtain ⟨hb, hr⟩ : b.last = false ∧ wholeRequest (c :: r) = true := by simpa [wholeRequest] using h
    have ih := fetchRequest_of_whole rest hr
    simp only [List.map_cons, List.cons_append] at ih ⊢
    rw [fetchRequest, hb, ih]
    rfl

/-- Settles O38: the request at the front of the inputs is fetched whole, and a well-formed operation is performed. -/
theorem stepRunsTheDecodedRequest : Obligations.StepRunsTheDecodedRequest := by
  intro s bs rest i hbusy hin hdec hwf
  have hwhole := wholeRequest_of_decodeRequest hdec
  have hfetch : fetchRequest s.inputs = some (bs, rest) := hin ▸ fetchRequest_of_whole rest hwhole
  cases bs with
  | nil => cases hwhole
  | cons b ps =>
    have hcons : s.inputs = .offer b :: (ps.map .offer ++ rest) := hin
    rw [step, nextStep, hfetch, hcons]
    simp [hbusy, runRequest, hdec, hwf]

end Sys2Proof.Machine
end

section
/-! What an operation answers on an idle block, said once for all eight: the response and the new toggle are settled by
the parameters, the toggle and the operation alone (R12, R13). -/

namespace Sys2Proof.Machine

/-! ## Idle blocks -/

theorem State.Idle.not_busy {s : State} (hs : s.Idle) : s.busy = false := by
  obtain ⟨hbusy, -⟩ := hs
  exact hbusy

theorem State.Idle.pgPhase {s : State} (hs : s.Idle) : s.pgPhase = false := by
  obtain ⟨-, -, hphase, -⟩ := hs
  exact hphase

theorem State.Idle.rspOut {s : State} (hs : s.Idle) : s.rspOut = [] := by
  obtain ⟨-, -, -, -, -, hout⟩ := hs
  exact hout

/-! ## Answers -/

/-- What a whole operation does: whether it flips the toggle, what it makes of `acc` and `pg_hold`, and its response
as data beats and the trailer's status. -/
structure Answer where
  flips : Bool
  acc : Byte → Byte
  hold : Byte → Byte
  data : List RspBeat
  status : BitVec 3

/-- The whole response (R41). -/
def Answer.response (A : Answer) : List RspBeat := A.data ++ [RspBeat.trailer A.status]

/-- The beats are data beats of R72 and the trailer has one of the five codes of R77. -/
def Answer.Legal (A : Answer) : Prop := DataBeats A.data ∧ A.status.toNat ≤ 4

/-- The answer given inside a transaction: the response stands in the queue. -/
def Answer.queue (A : Answer) (s : State) : State :=
  { s with
    toggle := s.toggle ^^ A.flips
    acc := A.acc s.acc
    pgHold := A.hold s.pgHold
    rspOut := s.rspOut ++ A.response }

/-- The answer given by a whole transaction on an idle block: the response is handed over. -/
def Answer.complete (A : Answer) (op : OpSel) (s : State) : State :=
  { s with
    toggle := s.toggle ^^ A.flips
    acc := A.acc s.acc
    pgHold := A.hold s.pgHold
    opLat := op.code
    delivered := s.delivered ++ A.response }

/-- The work `body` gives one and the same legal answer whenever the parameters are `c`, the toggle is `tog` and no
complement is pending, whatever else the state holds; `flips` says whether it flips the toggle. -/
def HasAnswer (body : State → Except Fault State) (c : Config) (tog flips : Bool) : Prop :=
  ∃ A : Answer, A.flips = flips ∧ A.Legal ∧
    ∀ s : State, s.pgPhase = false → s.cfg = c → s.toggle = tog → body s = .ok (A.queue s)

theorem trailer_legal {st : BitVec 3} (h : st.toNat ≤ 4) : (RspBeat.trailer st).legal = true := by
  simp [RspBeat.legal, RspBeat.trailer, h]

theorem statusOk_le : statusOk.toNat ≤ 4 := by decide

theorem errorCode_le (e : ErrorKind) : e.code.toNat ≤ 4 := by cases e <;> decide

/-- A trailer after data beats is a complete response (R41). -/
theorem endsInTrailer_append_trailer {r : List RspBeat} (hr : DataBeats r) (st : BitVec 3) :
    endsInTrailer (r ++ [RspBeat.trailer st]) = true := by
  induction r with
  | nil => rfl
  | cons b r ih =>
    have hb : b.last = false := (hr b (by simp)).1
    have ih := ih fun x hx => hr x (by simp [hx])
    cases r <;> simp_all [endsInTrailer]

theorem legal_of_mem_append_trailer {r : List RspBeat} (hr : DataBeats r) {st : BitVec 3} (hst : st.toNat ≤ 4) :
    ∀ b ∈ r ++ [RspBeat.trailer st], b.legal = true := by
  intro b hb
  rcases List.mem_append.1 hb with hb | hb
  · exact (hr b hb).2
  · rw [List.mem_singleton.1 hb]
    exact trailer_legal hst

theorem Answer.Legal.endsInTrailer {A : Answer} (h : A.Legal) : endsInTrailer A.response = true :=
  endsInTrailer_append_trailer h.1 _

theorem Answer.Legal.legal_of_mem {A : Answer} (h : A.Legal) : ∀ b ∈ A.response, b.legal = true :=
  legal_of_mem_append_trailer h.1 h.2

/-- Handing over the queued answer of a transaction leaves an idle block idle again. -/
theorem deliverAll_queue_openTransaction (A : Answer) (op : OpSel) {s : State} (hs : s.Idle) :
    deliverAll (closeRequest (A.queue (openTransaction op.code s))) = A.complete op s := by
  obtain ⟨hbusy, hopen, -, hbuf, herr, hout⟩ := hs
  cases s
  simp_all [Answer.queue, Answer.complete, deliverAll, closeRequest, openTransaction]

/-- A transaction around work that has an answer hands that answer over. -/
theorem transact_of_hasAnswer {body : State → Except Fault State} {c : Config} {tog flips : Bool}
    (h : HasAnswer body c tog flips) (op : OpSel) :
    ∃ A : Answer, A.flips = flips ∧ A.Legal ∧
      ∀ s : State, s.Idle → s.cfg = c → s.toggle = tog → transact op body s = .next (A.complete op s) := by
  obtain ⟨A, hflips, hlegal, hbody⟩ := h
  refine ⟨A, hflips, hlegal, fun s hs hc htog => ?_⟩
  rw [transact_ok (hbody (openTransaction op.code s) hs.pgPhase hc htog), deliverAll_queue_openTransaction A op hs]

/-! ## The answer of each piece of work -/

/-- The error's trailer alone, and nothing written (R165). -/
theorem raiseError_hasAnswer (e : ErrorKind) (c : Config) (tog : Bool) :
    HasAnswer (fun s => .ok (raiseError e s)) c tog false := by
  refine ⟨⟨false, id, id, [], e.code⟩, rfl, ⟨dataBeats_nil, errorCode_le e⟩, fun s _ _ _ => ?_⟩
  simp [raiseError, sendTrailer, Answer.queue, Answer.response]

/-- Adding bytes one by one to the accumulator gives the checksum of R65. -/
theorem foldl_add_eq_checksumOf (t : Byte) (ps : List Byte) : ps.foldl (· + ·) t = checksumOf t ps := by
  induction ps generalizing t with
  | nil =>
    apply BitVec.eq_of_toNat_eq
    have ht := t.isLt
    simp only [checksumOf, sumMod, List.foldl_nil, List.map_nil, List.sum_nil, BitVec.toNat_ofNat]
    omega
  | cons p ps ih =>
    rw [List.foldl_cons, ih]
    apply BitVec.eq_of_toNat_eq
    simp only [checksumOf, sumMod, List.map_cons, List.sum_cons, BitVec.toNat_ofNat, BitVec.toNat_add]
    omega

/-- ENCODE of a Command flips the toggle, and its frame depends on nothing but the toggle and the Command. -/
theorem runCommand_hasAnswer (cmd : Command) (c : Config) (tog : Bool) : HasAnswer (runCommand cmd) c tog true := by
  refine ⟨{
    flips := true
    acc := fun _ => checksumOf (transmitted tog cmd.opcode) cmd.params
    hold := fun _ => checksumOf (transmitted tog cmd.opcode) cmd.params
    data := preambleBeats ++ pairBeats .opcode (transmitted tog cmd.opcode) ++
      cmd.params.flatMap (pairBeats .param) ++
      pairBeats .checksum (checksumOf (transmitted tog cmd.opcode) cmd.params)
    status := statusOk }, rfl, ⟨?_, statusOk_le⟩, ?_⟩
  · exact ((dataBeats_preamble.append (dataBeats_pair _ _)).append (dataBeats_params _)).append (dataBeats_pair _ _)
  · rintro s hphase - rfl
    simp [runCommand_ok hphase, foldl_add_eq_checksumOf, Answer.queue, Answer.response]

/-- A catalog operation flips the toggle exactly where the lookup gives a Command (R147). -/
theorem runAction_hasAnswer (a : Action) (m : Byte) (c : Config) (tog : Bool) :
    HasAnswer (runAction a m) c tog (catalog c a m).isOk := by
  cases hcat : catalog c a m with
  | error e =>
    obtain ⟨A, hflips, hlegal, hrun⟩ := raiseError_hasAnswer e c tog
    refine ⟨A, hflips, hlegal, fun s hphase hc htog => ?_⟩
    rw [runAction, hc, hcat]
    exact hrun s hphase hc htog
  | ok cmd =>
    obtain ⟨A, hflips, hlegal, hrun⟩ := runCommand_hasAnswer cmd c tog
    refine ⟨A, hflips, hlegal, fun s hphase hc htog => ?_⟩
    rw [runAction, hc, hcat]
    exact hrun s hphase hc htog

theorem catalog_motor_isOk {a : Action} (ha : a = .motorOn ∨ a = .motorOff) (c : Config) (m : Byte) :
    (catalog c a m).isOk = decide (m.toNat < c.nMotors) := by
  by_cases hm : m.toNat < c.nMotors
  · rcases ha with rfl | rfl <;> simp [catalog, Nat.not_le.2 hm, hm, Except.isOk, Except.toBool]
  · rcases ha with rfl | rfl <;> simp [catalog, Nat.le_of_not_lt hm, hm, Except.isOk, Except.toBool]

/-- DECODE answers from the frame alone (R120). -/
theorem runDecode_hasAnswer (f : List Byte) (c : Config) (tog : Bool) : HasAnswer (runDecode f) c tog false := by
  rcases decodeFrame_total f with ⟨-, hf⟩ | ⟨-, d, -, hf⟩
  · obtain ⟨A, hflips, hlegal, hrun⟩ := raiseError_hasAnswer .malformedFrame c tog
    refine ⟨A, hflips, hlegal, fun s hphase hc htog => ?_⟩
    rw [runDecode, hf]
    exact hrun s hphase hc htog
  · refine ⟨⟨false, id, id, taggedFrame d.bytes, statusOk⟩, rfl, ⟨dataBeats_tagFrom _ _ _, statusOk_le⟩,
      fun s _ _ _ => ?_⟩
    simp [runDecode, hf, Answer.queue, Answer.response, emitAll, sendTrailer]

/-- The verdict of VALIDATE is a function of the frame alone, and so is what it makes of `acc` (R125). -/
theorem validateFrame_verdict (f : List Byte) :
    ∃ (r : ValidationResult) (a : Byte → Byte), ∀ s, validateFrame f s = .ok (r, { s with acc := a s.acc }) := by
  cases hc : checkLen f.length with
  | none => exact ⟨.malformedFrame, id, fun s => by simp only [validateFrame, hc, id]⟩
  | some n =>
    have hl := checkLen_eq_some.1 hc
    obtain ⟨ps, hp, -, -⟩ := readPairs_ok f preLen (n + 2) (by simp only [preLen]; omega)
    cases hbad : somePairBad ps with
    | true => exact ⟨.complementMismatch, id, fun s => by simp [validateFrame, hc, hp, hbad]⟩
    | false =>
      have ht : preLen < f.length := by simp only [preLen]; omega
      have hsum : ∀ s, addValues f 5 n (caAdd f[preLen] (caClear s)) = .ok { s with acc := dueChecksum f n } := by
        intro s
        rw [addValues_ok f 5 n _ (by omega), foldl_add_eq_checksumOf, dueChecksum,
          List.getD_eq_getElem _ _ (show 3 < f.length from ht)]
        simp [caAdd, caClear, preLen]
      have hlast : f.length - 2 < f.length := by omega
      by_cases hsame : f[f.length - 2] = dueChecksum f n
      · exact ⟨.valid, fun _ => dueChecksum f n, fun s => by
          simp [validateFrame, hc, hp, hbad, readByte_ok ht, readByte_ok hlast, hsum, caRead, hsame]⟩
      · exact ⟨.checksumMismatch, fun _ => dueChecksum f n, fun s => by
          simp [validateFrame, hc, hp, hbad, readByte_ok ht, readByte_ok hlast, hsum, caRead, hsame]⟩

/-- VALIDATE answers from the frame alone, with no data beat (R128). -/
theorem runValidate_hasAnswer (f : List Byte) (c : Config) (tog : Bool) : HasAnswer (runValidate f) c tog false := by
  obtain ⟨r, a, hf⟩ := validateFrame_verdict f
  cases he : r.toError with
  | none =>
    refine ⟨⟨false, a, id, [], statusOk⟩, rfl, ⟨dataBeats_nil, statusOk_le⟩, fun s _ _ _ => ?_⟩
    simp [runValidate, hf, he, Answer.queue, Answer.response, sendTrailer]
  | some e =>
    refine ⟨⟨false, a, id, [], e.code⟩, rfl, ⟨dataBeats_nil, errorCode_le e⟩, fun s _ _ _ => ?_⟩
    simp [runValidate, hf, he, Answer.queue, Answer.response, raiseError, sendTrailer]

/-! ## The answer of each operation -/

/-- Everything an operation does on an idle block: the answer is settled by the parameters, the toggle and the
operation, and beside it only `op_lat` is written. -/
theorem exec_hasAnswer (i : Instr) (c : Config) (tog : Bool) :
    ∃ A : Answer, A.flips = flipsToggle c i ∧ A.Legal ∧
      ∀ s : State, s.Idle → s.cfg = c → s.toggle = tog → exec i s = .next (A.complete (Laws.selects i) s) := by
  cases i with
  | encode o ps => exact transact_of_hasAnswer (runCommand_hasAnswer ⟨o, ps⟩ c tog) .encode
  | ping => exact transact_of_hasAnswer (runAction_hasAnswer .ping 0x00#8 c tog) .ping
  | stopAll => exact transact_of_hasAnswer (runAction_hasAnswer .stopAll 0x00#8 c tog) .stopAll
  | beep => exact transact_of_hasAnswer (runAction_hasAnswer .beep 0x00#8 c tog) .beep
  | motorOn m =>
    rw [flipsToggle, ← catalog_motor_isOk (.inl rfl)]
    exact transact_of_hasAnswer (runAction_hasAnswer .motorOn m c tog) .motorOn
  | motorOff m =>
    rw [flipsToggle, ← catalog_motor_isOk (.inr rfl)]
    exact transact_of_hasAnswer (runAction_hasAnswer .motorOff m c tog) .motorOff
  | decode f => exact transact_of_hasAnswer (runDecode_hasAnswer f c tog) .decode
  | validate f => exact transact_of_hasAnswer (runValidate_hasAnswer f c tog) .validate

/-- Settles O30: the answer of `exec_hasAnswer`, read field by field. -/
theorem everyOperationCompletes : Obligations.EveryOperationCompletes := by
  intro i s hs
  obtain ⟨A, hflips, hlegal, hexec⟩ := exec_hasAnswer i s.cfg s.toggle
  exact ⟨A.complete (Laws.selects i) s, A.response, hexec s hs rfl rfl, hs, congrArg (s.toggle ^^ ·) hflips, rfl,
    hlegal.endsInTrailer, hlegal.legal_of_mem, rfl, rfl, rfl, rfl, rfl⟩

/-- Settles O32: both states give the one answer that their common parameters and toggle settle. -/
theorem leftoverRegistersAreNeverRead : Obligations.LeftoverRegistersAreNeverRead := by
  intro i s s' hs hs' hcfg htog
  obtain ⟨A, -, -, hexec⟩ := exec_hasAnswer i s.cfg s.toggle
  exact ⟨_, _, A.response, hexec s hs rfl rfl, hexec s' hs' hcfg.symm htog.symm, rfl, rfl,
    congrArg (· ^^ A.flips) htog⟩

/-! ## Operations one after the other -/

/-- The host's inputs are not looked at by an operation on an idle block, and it leaves them alone. -/
theorem exec_withInputs {i : Instr} {s t : State} (hs : s.Idle) (h : exec i s = .next t) (rest : List HostInput) :
    exec i { s with inputs := rest } = .next { t with inputs := rest } := by
  obtain ⟨A, -, -, hexec⟩ := exec_hasAnswer i s.cfg s.toggle
  obtain rfl := Host.Outcome.next.inj ((hexec s hs rfl rfl).symm.trans h)
  exact hexec { s with inputs := rest } hs rfl rfl

theorem run_succ_of_step {M : Host.Core} {s t : M.State} (h : M.step s = .next t) (n : Nat) :
    M.run (n + 1) s = M.run n t := by
  rw [Host.Core.run, h]

/-- Settles O39, by induction on the operations: the first step takes the first request off the inputs (O38), and the
block it leaves is idle with the remaining requests offered (O30). -/
theorem stepsPerformRequestsInOrder : Obligations.StepsPerformRequestsInOrder := by
  intro is
  induction is with
  | nil =>
    rintro s rest - - rfl
    rfl
  | cons i is ih =>
    intro s rest hs hwf hin
    rw [List.flatMap_cons, List.map_append, List.append_assoc] at hin
    have hstep := stepRunsTheDecodedRequest s _ _ i hs.not_busy hin (decodeRequest_encodeRequest i) (hwf i (by simp))
    obtain ⟨t, -, hexec, hidle, -, -, -, -, hcfg, hinputs, -⟩ := everyOperationCompletes i
      { s with inputs := (is.flatMap encodeRequest).map .offer ++ rest } hs
    have htail := ih t rest hidle (fun j hj => hcfg ▸ hwf j (by simp [hj])) hinputs
    have hfirst : exec i { s with inputs := rest } = .next { t with inputs := rest } :=
      exec_withInputs (s := { s with inputs := (is.flatMap encodeRequest).map .offer ++ rest }) hs hexec rest
    rw [List.length_cons, run_succ_of_step (M := core) (hstep.trans hexec), htail, execAll, hfirst, andThen]

end Sys2Proof.Machine
end

section
/-! What a step can do, and what no work of the block touches: the parameters, the host's side and the timing. These
hold in any state at all, good or not. -/

namespace Sys2Proof.Machine

/-! ## The work of the block stays inside the block -/

/-- The two states agree on all that the work of an operation has no hand in: the parameters, the host's side of the
ports (log 3) and the free timing (log 4). -/
structure SameOutside (s t : State) : Prop where
  cfg : t.cfg = s.cfg
  inputs : t.inputs = s.inputs
  delivered : t.delivered = s.delivered
  edges : t.edges = s.edges
  reqStall : t.reqStall = s.reqStall
  rspStall : t.rspStall = s.rspStall

theorem SameOutside.refl (s : State) : SameOutside s s := ⟨rfl, rfl, rfl, rfl, rfl, rfl⟩

theorem SameOutside.trans {s t u : State} (h : SameOutside s t) (h' : SameOutside t u) : SameOutside s u :=
  ⟨h'.cfg.trans h.cfg, h'.inputs.trans h.inputs, h'.delivered.trans h.delivered, h'.edges.trans h.edges,
    h'.reqStall.trans h.reqStall, h'.rspStall.trans h.rspStall⟩

/-- Two pieces of work in a row succeed only where both do. -/
theorem bind_eq_ok {α β : Type} {x : Except Fault α} {k : α → Except Fault β} {b : β} (h : x >>= k = .ok b) :
    ∃ a, x = .ok a ∧ k a = .ok b := by
  cases x with
  | error e => cases h
  | ok a => exact ⟨a, rfl, h⟩

theorem pgPair_sameOutside {b : Byte} {k : ValueKind} {s t : State} (h : pgPair b k s = .ok t) :
    SameOutside s t := by
  obtain ⟨-, rfl⟩ := pgPair_inv h
  exact ⟨rfl, rfl, rfl, rfl, rfl, rfl⟩

theorem startFrame_sameOutside {o : Byte} {s t : State} (h : startFrame o s = .ok t) : SameOutside s t := by
  have hbefore : SameOutside s (emitPreamble (caAdd (transmitted s.toggle o) (caClear (tfApply o s).2))) :=
    ⟨rfl, rfl, rfl, rfl, rfl, rfl⟩
  exact hbefore.trans (pgPair_sameOutside h)

theorem addParam_sameOutside {p : Byte} {s t : State} (h : addParam p s = .ok t) : SameOutside s t := by
  have hbefore : SameOutside s (caAdd p s) := ⟨rfl, rfl, rfl, rfl, rfl, rfl⟩
  exact hbefore.trans (pgPair_sameOutside h)

theorem addParams_sameOutside {ps : List Byte} {s t : State} (h : addParams ps s = .ok t) : SameOutside s t := by
  induction ps generalizing s with
  | nil =>
    cases h
    exact .refl _
  | cons p ps ih =>
    obtain ⟨u, hp, hps⟩ := bind_eq_ok h
    exact (addParam_sameOutside hp).trans (ih hps)

theorem finishFrame_sameOutside {s t : State} (h : finishFrame s = .ok t) : SameOutside s t := by
  obtain ⟨u, hu, ht⟩ := bind_eq_ok h
  cases ht
  exact (pgPair_sameOutside hu).trans ⟨rfl, rfl, rfl, rfl, rfl, rfl⟩

theorem runCommand_sameOutside {c : Command} {s t : State} (h : runCommand c s = .ok t) : SameOutside s t := by
  obtain ⟨u, hu, h⟩ := bind_eq_ok h
  obtain ⟨v, hv, h⟩ := bind_eq_ok h
  exact ((startFrame_sameOutside hu).trans (addParams_sameOutside hv)).trans (finishFrame_sameOutside h)

theorem runAction_sameOutside {a : Action} {m : Byte} {s t : State} (h : runAction a m s = .ok t) :
    SameOutside s t := by
  rw [runAction] at h
  split at h
  · cases h
    exact ⟨rfl, rfl, rfl, rfl, rfl, rfl⟩
  · exact runCommand_sameOutside h

theorem runDecode_sameOutside {f : List Byte} {s t : State} (h : runDecode f s = .ok t) : SameOutside s t := by
  obtain ⟨r, st, hr, -⟩ := runDecode_ok f s
  cases hr.symm.trans h
  exact ⟨rfl, rfl, rfl, rfl, rfl, rfl⟩

theorem runValidate_sameOutside {f : List Byte} {s t : State} (h : runValidate f s = .ok t) : SameOutside s t := by
  obtain ⟨a, st, hr, -⟩ := runValidate_ok f s
  cases hr.symm.trans h
  exact ⟨rfl, rfl, rfl, rfl, rfl, rfl⟩

/-! ## So does the work at the beats of a request -/

theorem openAction_sameOutside {a : Action} {m : Byte} {s t : State} (h : openAction a m s = .ok t) :
    SameOutside s t := by
  rw [openAction] at h
  split at h
  · cases h
    exact ⟨rfl, rfl, rfl, rfl, rfl, rfl⟩
  · obtain ⟨u, hu, h⟩ := bind_eq_ok h
    exact (startFrame_sameOutside hu).trans (addParams_sameOutside h)

theorem headerWork_sameOutside {b : ReqBeat} {s t : State} (h : headerWork b s = .ok t) : SameOutside s t := by
  rw [headerWork] at h
  split at h
  case h_1 => exact startFrame_sameOutside h
  case h_7 | h_8 =>
    cases h
    exact .refl _
  all_goals exact openAction_sameOutside h

theorem payloadWork_sameOutside {b : ReqBeat} {s t : State} (h : payloadWork b s = .ok t) : SameOutside s t := by
  rw [payloadWork] at h
  split at h
  case h_1 => exact addParam_sameOutside h
  all_goals
    cases h
    exact ⟨rfl, rfl, rfl, rfl, rfl, rfl⟩

theorem finishEncode_sameOutside {s t : State} (h : finishEncode s = .ok t) : SameOutside s t := by
  rw [finishEncode] at h
  split at h
  · cases h
    exact ⟨rfl, rfl, rfl, rfl, rfl, rfl⟩
  · exact finishFrame_sameOutside h

theorem finishWork_sameOutside {s t : State} (h : finishWork s = .ok t) : SameOutside s t := by
  rw [finishWork] at h
  split at h
  case h_7 => exact runDecode_sameOutside h
  case h_8 => exact runValidate_sameOutside h
  all_goals exact finishEncode_sameOutside h

theorem finishIfLast_sameOutside {last : Bool} {s t : State} (h : finishIfLast last s = .ok t) :
    SameOutside s t := by
  cases last with
  | false =>
    cases h
    exact .refl _
  | true =>
    obtain ⟨u, hu, ht⟩ := bind_eq_ok h
    cases ht
    exact (finishWork_sameOutside hu).trans ⟨rfl, rfl, rfl, rfl, rfl, rfl⟩

/-- A request beat that moves is dealt with inside the block. -/
theorem takeBeat_sameOutside {b : ReqBeat} {s t : State} (h : takeBeat b s = .next t) : SameOutside s t := by
  rcases takeBeat_inv h with ⟨-, -, u, hu, hf⟩ | ⟨-, u, hu, hf⟩
  · exact (payloadWork_sameOutside hu).trans (finishIfLast_sameOutside hf)
  · have hopen : SameOutside s (openTransaction b.op s) := ⟨rfl, rfl, rfl, rfl, rfl, rfl⟩
    exact (hopen.trans (headerWork_sameOutside hu)).trans (finishIfLast_sameOutside hf)

/-! ## Deliveries grow -/

theorem transact_grows {op : OpSel} {body : State → Except Fault State} {s t : State}
    (hbody : ∀ {u v}, body u = .ok v → SameOutside u v) (h : transact op body s = .next t) :
    t.cfg = s.cfg ∧ ∃ bs, t.delivered = s.delivered ++ bs := by
  obtain ⟨u, hu, rfl⟩ := transact_inv h
  exact ⟨(hbody hu).cfg, u.rspOut, congrArg (· ++ u.rspOut) (hbody hu).delivered⟩

theorem exec_grows {i : Instr} {s t : State} (h : exec i s = .next t) :
    t.cfg = s.cfg ∧ ∃ bs, t.delivered = s.delivered ++ bs := by
  cases i with
  | encode o ps => exact transact_grows runCommand_sameOutside h
  | decode f => exact transact_grows runDecode_sameOutside h
  | validate f => exact transact_grows runValidate_sameOutside h
  | ping | stopAll | beep | motorOn m | motorOff m => exact transact_grows runAction_sameOutside h

theorem giveBeat_grows (s : State) :
    (giveBeat s).cfg = s.cfg ∧ ∃ bs, (giveBeat s).delivered = s.delivered ++ bs := by
  rcases giveBeat_cases s with ⟨-, h⟩ | ⟨b, r, -, h⟩
  · rw [h]
    exact ⟨rfl, [], (List.append_nil _).symm⟩
  · rw [h]
    exact ⟨rfl, [b], rfl⟩

theorem clockEdge_grows {p : Pins} {s t : State} (h : clockEdge p s = .next t) :
    t.cfg = s.cfg ∧ ∃ bs, t.delivered = s.delivered ++ bs := by
  rcases clockEdge_inv h with ⟨-, rfl⟩ | ⟨-, u, hu, rfl⟩
  · exact ⟨rfl, [], (List.append_nil _).symm⟩
  · have hreq : SameOutside s u := by
      split at hu
      · exact takeBeat_sameOutside hu
      · cases hu
        exact .refl _
    rw [retime_cfg, retime_delivered, ← hreq.cfg, ← hreq.delivered]
    split
    · exact giveBeat_grows u
    · exact ⟨rfl, [], (List.append_nil _).symm⟩

/-! ## Everything a step can do -/

/-- An offer of one beat is a clock edge, with the beat taken off the inputs or not. -/
theorem offerEdge_eq (b : ReqBeat) (rest : List HostInput) (s : State) :
    ∃ left, offerEdge b rest s = clockEdge (offering b) { s with inputs := left } := by
  rw [offerEdge]
  split
  · exact ⟨rest, rfl⟩
  · exact ⟨s.inputs, rfl⟩

/-- A step does nothing, or is one clock edge, or is one whole well-formed operation on a block that is not busy. -/
theorem step_inv {s t : State} (h : step s = .next t) :
    (s.inputs = [] ∧ t = s) ∨
    (∃ p left, clockEdge p { s with inputs := left } = .next t) ∨
    (s.busy = false ∧ ∃ i left, i.wf s.cfg = true ∧ exec i { s with inputs := left } = .next t) := by
  have offer : ∀ {b : ReqBeat} {rest : List HostInput}, offerEdge b rest s = .next t →
      ∃ p left, clockEdge p { s with inputs := left } = .next t := by
    intro b rest h
    obtain ⟨left, hedge⟩ := offerEdge_eq b rest s
    exact ⟨_, left, hedge ▸ h⟩
  rw [step, nextStep] at h
  split at h
  case h_1 hin => exact .inl ⟨hin, (Host.Outcome.next.inj h).symm⟩
  case h_2 p rest _ => exact .inr (.inl ⟨p, rest, h⟩)
  case h_3 b rest _ =>
    split at h
    case isTrue => exact .inr (.inl (offer h))
    case isFalse hbusy =>
      split at h
      · rw [runRequest] at h
        split at h
        · split at h
          case isTrue i _ hwf => exact .inr (.inr ⟨Bool.eq_false_of_not_eq_true hbusy, i, _, hwf, h⟩)
          case isFalse => cases h
        · exact .inr (.inl (offer h))
      · exact .inr (.inl (offer h))

/-- Settles O44: each of the three things a step can do keeps the parameters and lets the deliveries grow. -/
theorem parametersStayAndDeliveriesGrow : Obligations.ParametersStayAndDeliveriesGrow := by
  intro s t h
  rcases step_inv h with ⟨-, rfl⟩ | ⟨p, left, hedge⟩ | ⟨-, i, left, -, hexec⟩
  · exact ⟨rfl, [], (List.append_nil _).symm⟩
  · exact clockEdge_grows (s := { s with inputs := left }) hedge
  · exact exec_grows (s := { s with inputs := left }) hexec

end Sys2Proof.Machine
end

section
/-! The invariant of the block, cut into the three phases of a transaction (idle, taking the request, sending what is
left of the response), and every step keeps it. -/

namespace Sys2Proof.Machine

/-! ## The phases of the invariant -/

theorem fits_zero (c : Config) : c.fits 0 = true := by
  rw [Config.fits]
  split <;> simp

/-- Request beats are still to come (R45): no trailer yet, nothing at all by an operation whose whole response depends
on the last request beat, and nothing kept but what the operation in flight may keep. -/
structure State.Taking (s : State) : Prop where
  busy : s.busy = true
  reqOpen : s.reqOpen = true
  pgPhase : s.pgPhase = false
  rspOut : DataBeats s.rspOut
  silent : s.collects = true ∨ s.errLat.isSome = true → s.rspOut = []
  errLat : s.errLat = none ∨ s.errLat = some .invalidMotorIndex ∧
    (OpSel.ofCode s.opLat = .motorOn ∨ OpSel.ofCode s.opLat = .motorOff)
  frameBuf : s.collects = false → s.frameBuf = []
  fits : OpSel.ofCode s.opLat = .decode → s.cfg.fits s.frameBuf.length = true

/-- The last request beat has been dealt with (R46): what is left is the end of the response, with its one trailer. -/
structure State.Sending (s : State) : Prop where
  busy : s.busy = true
  reqOpen : s.reqOpen = false
  pgPhase : s.pgPhase = false
  frameBuf : s.frameBuf = []
  errLat : s.errLat = none
  ends : endsInTrailer s.rspOut = true
  legal : ∀ b ∈ s.rspOut, b.legal = true

/-- The invariant is the range of the parameters, the legality of what was delivered, and one of the three phases. -/
theorem inv_iff (s : State) : s.Inv ↔
    s.cfg.wf = true ∧ (∀ b ∈ s.delivered, b.legal = true) ∧ (s.Idle ∨ s.Taking ∨ s.Sending) := by
  constructor
  · rintro ⟨hwf, hphase, hidle, hopen, hsilent, hsend, herr, hbuf, hfits, hout, hdel⟩
    refine ⟨hwf, hdel, ?_⟩
    cases hb : s.busy with
    | false => exact .inl (hidle hb)
    | true =>
      cases ho : s.reqOpen with
      | true =>
        exact .inr (.inl ⟨hb, ho, hphase, fun b hmem => ⟨hopen ho b hmem, hout b hmem⟩, hsilent ho, herr, hbuf,
          hfits⟩)
      | false =>
        obtain ⟨hends, hnil, hnone⟩ := hsend hb ho
        exact .inr (.inr ⟨hb, ho, hphase, hnil, hnone, hends, hout⟩)
  · rintro ⟨hwf, hdel, hidle | htaking | hsending⟩
    · have ⟨hb, ho, hphase, hnil, hnone, hout⟩ := hidle
      exact ⟨hwf, hphase, fun _ => hidle, fun h => by simp [ho] at h, fun h => by simp [ho] at h,
        fun h => by simp [hb] at h, .inl hnone, fun _ => hnil, fun _ => by simp [hnil, fits_zero], by simp [hout],
        hdel⟩
    · have hb := htaking.busy
      have ho := htaking.reqOpen
      exact ⟨hwf, htaking.pgPhase, fun h => by simp [hb] at h, fun _ b hmem => (htaking.rspOut b hmem).1,
        fun _ => htaking.silent, fun _ h => by simp [ho] at h, htaking.errLat, htaking.frameBuf, htaking.fits,
        fun b hmem => (htaking.rspOut b hmem).2, hdel⟩
    · have hb := hsending.busy
      have ho := hsending.reqOpen
      exact ⟨hwf, hsending.pgPhase, fun h => by simp [hb] at h, fun h => by simp [ho] at h,
        fun h => by simp [ho] at h, fun _ _ => ⟨hsending.ends, hsending.frameBuf, hsending.errLat⟩,
        .inl hsending.errLat, fun _ => hsending.frameBuf, fun _ => by simp [hsending.frameBuf, fits_zero],
        hsending.legal, hdel⟩

theorem State.Inv.idle {s : State} (hs : s.Inv) (hbusy : s.busy = false) : s.Idle := by
  obtain ⟨-, -, hidle, -⟩ := hs
  exact hidle hbusy

theorem State.Inv.legal {s : State} (hs : s.Inv) : ∀ b ∈ s.rspOut, b.legal = true := by
  obtain ⟨-, -, -, -, -, -, -, -, -, hlegal, -⟩ := hs
  exact hlegal

theorem inv_of_idle {s : State} (hs : s.Idle) (hwf : s.cfg.wf = true) (hdel : ∀ b ∈ s.delivered, b.legal = true) :
    s.Inv := (inv_iff s).2 ⟨hwf, hdel, .inl hs⟩

/-- Settles O41. -/
theorem resetStateIsGood : Obligations.ResetStateIsGood :=
  have hidle : State.reset.Idle := ⟨rfl, rfl, rfl, rfl, rfl, rfl⟩
  ⟨inv_of_idle hidle rfl fun _ hb => absurd hb List.not_mem_nil, hidle⟩

/-! ## Reset -/

theorem clockEdge_of_rst {p : Pins} (h : p.rst = true) (s : State) : clockEdge p s = .next (resetEdge s) := by
  rw [clockEdge, if_pos h]

theorem outputs_of_rst {p : Pins} (h : p.rst = true) (s : State) : outputs p s = ⟨false, none, s.toggle⟩ := by
  rw [outputs, if_pos h, tfPeek]

theorem outputs_toggleQ (p : Pins) (s : State) : (outputs p s).toggleQ = s.toggle := by
  rw [outputs]
  split <;> rfl

theorem resetEdge_idle (s : State) : (resetEdge s).Idle := ⟨rfl, rfl, rfl, rfl, rfl, rfl⟩

/-- Settles O46. -/
theorem resetEdgeGivesTheResetValues : Obligations.ResetEdgeGivesTheResetValues := by
  intro p s hrst
  rw [outputs_of_rst hrst]
  exact ⟨rfl, rfl, resetEdge s, clockEdge_of_rst hrst s, rfl, fun q => outputs_toggleQ q _, rfl, rfl, rfl, rfl, rfl⟩

/-! ## A request beat keeps the invariant -/

theorem openTransaction_taking (op : BitVec 3) {s : State} (hs : s.Idle) : (openTransaction op s).Taking := by
  obtain ⟨-, -, hphase, -, -, hout⟩ := hs
  exact ⟨rfl, rfl, hphase, hout ▸ dataBeats_nil, fun _ => hout, .inl rfl, fun _ => rfl,
    fun _ => fits_zero _⟩

/-- An ENCODE-class operation that has not been rejected may send data beats while it takes the request. -/
theorem State.Taking.send {s : State} (h : s.Taking) (hcollects : s.collects = false) (herr : s.errLat = none)
    {r : List RspBeat} (hr : DataBeats r) (tog : Bool) (a p : Byte) :
    State.Taking { s with toggle := tog, acc := a, pgHold := p, rspOut := s.rspOut ++ r } where
  busy := h.busy
  reqOpen := h.reqOpen
  pgPhase := h.pgPhase
  rspOut := h.rspOut.append hr
  silent := by
    rintro (hc | he)
    · exact absurd (hcollects.symm.trans hc) (by simp)
    · simp [herr] at he
  errLat := h.errLat
  frameBuf := h.frameBuf
  fits := h.fits

/-- The header beat of a catalog operation: the frame begins, or a motor operation keeps its error (R148). -/
theorem openAction_taking {a : Action} {m : Byte} {s t : State} (hs : s.Taking) (hcollects : s.collects = false)
    (herr : s.errLat = none) (hout : s.rspOut = [])
    (hmotor : a = .motorOn ∨ a = .motorOff → OpSel.ofCode s.opLat = .motorOn ∨ OpSel.ofCode s.opLat = .motorOff)
    (h : openAction a m s = .ok t) : t.Taking := by
  rcases openAction_ok hs.pgPhase a m with ⟨c, -, hc⟩ | ⟨ha, -, hc⟩
  · rw [List.append_assoc, List.append_assoc] at hc
    cases hc.symm.trans h
    exact hs.send hcollects herr
      (dataBeats_preamble.append ((dataBeats_pair _ _).append (dataBeats_params _))) _ _ _
  · cases hc.symm.trans h
    exact { hs with silent := fun _ => hout, errLat := .inr ⟨rfl, hmotor ha⟩ }

theorem headerWork_taking {b : ReqBeat} {s t : State} (hs : s.Idle)
    (h : headerWork b (openTransaction b.op s) = .ok t) : t.Taking := by
  have htaking := openTransaction_taking b.op hs
  have hout : (openTransaction b.op s).rspOut = [] := hs.rspOut
  rw [headerWork] at h
  cases ho : OpSel.ofCode b.op <;> simp only [ho] at h
  case encode =>
    rw [startFrame_ok htaking.pgPhase, List.append_assoc] at h
    cases h
    exact htaking.send (by simp [State.collects, ho]) rfl (dataBeats_preamble.append (dataBeats_pair _ _)) _ _ _
  case decode | validate =>
    cases h
    exact htaking
  all_goals exact openAction_taking htaking (by simp [State.collects, ho]) rfl hout (by simp [ho]) h

theorem payloadWork_taking {b : ReqBeat} {s t : State} (hs : s.Taking) (hmax : beyondMaxLen s = false)
    (h : payloadWork b s = .ok t) : t.Taking := by
  rcases payloadWork_ok hs.pgPhase b with ⟨ho, hw⟩ | ⟨hcollects, hw⟩ | ⟨-, -, hw⟩
  · cases hw.symm.trans h
    have herr : s.errLat = none := by simpa [ho] using hs.errLat
    exact hs.send (by simp [State.collects, ho]) herr (dataBeats_pair _ _) _ _ _
  · cases hw.symm.trans h
    refine { hs with frameBuf := fun hc => ?_, fits := fun ho => ?_ }
    · exact absurd (hcollects.symm.trans hc) (by simp)
    · simpa [beyondMaxLen, show OpSel.ofCode s.opLat = .decode from ho] using hmax
  · cases hw.symm.trans h
    exact hs

/-- The last request beat makes the end of the response due (R46). -/
theorem finishIfLast_taking_or_sending {last : Bool} {s t : State} (hs : s.Taking)
    (h : finishIfLast last s = .ok t) : t.Taking ∨ t.Sending := by
  cases last with
  | false =>
    cases h
    exact .inl hs
  | true =>
    obtain ⟨r, st, a, p, hw, hr, hst⟩ := finishWork_ok hs.pgPhase
    have hdata := hs.rspOut.append hr
    rw [finishIfLast, if_pos rfl, hw] at h
    cases h
    refine .inr ⟨hs.busy, rfl, hs.pgPhase, rfl, rfl, ?_, ?_⟩
    · simpa using endsInTrailer_append_trailer hdata st
    · simpa using legal_of_mem_append_trailer hdata hst

theorem takeBeat_keeps_inv {b : ReqBeat} {s t : State} (hs : s.Inv) (hcan : canTake s = true)
    (h : takeBeat b s = .next t) : t.Inv := by
  obtain ⟨hwf, hdel, hphase⟩ := (inv_iff s).1 hs
  have hout := takeBeat_sameOutside h
  refine (inv_iff t).2 ⟨hout.cfg ▸ hwf, hout.delivered ▸ hdel, .inr ?_⟩
  rcases takeBeat_inv h with ⟨hbusy, hmax, u, hu, hf⟩ | ⟨hbusy, u, hu, hf⟩
  · have hopen : s.reqOpen = true := by simpa [canTake, hbusy] using hcan
    have htaking : s.Taking := by
      rcases hphase with hidle | htaking | hsending
      · exact absurd (hbusy.symm.trans hidle.not_busy) (by simp)
      · exact htaking
      · exact absurd (hopen.symm.trans hsending.reqOpen) (by simp)
    exact finishIfLast_taking_or_sending (payloadWork_taking htaking hmax hu) hf
  · have hidle : s.Idle := hs.idle hbusy
    exact finishIfLast_taking_or_sending (headerWork_taking hidle hu) hf

/-! ## A response beat keeps the invariant -/

theorem endsInTrailer_cons {b : RspBeat} {r : List RspBeat} (h : endsInTrailer (b :: r) = true) :
    (b.last = true ∧ r = []) ∨ (b.last = false ∧ endsInTrailer r = true) := by
  cases r with
  | nil => exact .inl ⟨h, rfl⟩
  | cons c r => exact .inr (by simpa [endsInTrailer] using h)

theorem giveBeat_keeps_inv {s : State} (hs : s.Inv) : (giveBeat s).Inv := by
  rcases giveBeat_cases s with ⟨-, hgive⟩ | ⟨b, r, hcons, hgive⟩
  · rwa [hgive]
  · obtain ⟨hwf, hdel, hphase⟩ := (inv_iff s).1 hs
    have hlegal : ∀ c ∈ b :: r, c.legal = true := hcons ▸ hs.legal
    have hdel' : ∀ c ∈ s.delivered ++ [b], c.legal = true := by
      intro c hc
      rcases List.mem_append.1 hc with hc | hc
      · exact hdel c hc
      · exact hlegal c (List.mem_singleton.1 hc ▸ List.mem_cons_self)
    rw [hgive]
    refine (inv_iff _).2 ⟨hwf, hdel', ?_⟩
    rcases hphase with hidle | htaking | hsending
    · exact absurd (hcons.symm.trans hidle.rspOut) (by simp)
    · have hdata : DataBeats (b :: r) := hcons ▸ htaking.rspOut
      have hlast : b.last = false := (hdata b List.mem_cons_self).1
      exact .inr (.inl { htaking with
        busy := by simp [htaking.busy, hlast]
        rspOut := fun c hc => hdata c (List.mem_cons_of_mem b hc)
        silent := fun hq => absurd (hcons.symm.trans (htaking.silent hq)) (by simp) })
    · rcases endsInTrailer_cons (hcons ▸ hsending.ends) with ⟨hlast, rfl⟩ | ⟨hlast, hends⟩
      · exact .inl ⟨by simp [hlast], hsending.reqOpen, hsending.pgPhase, hsending.frameBuf, hsending.errLat, rfl⟩
      · exact .inr (.inr { hsending with
          busy := by simp [hsending.busy, hlast]
          ends := hends
          legal := fun c hc => hlegal c (List.mem_cons_of_mem b hc) })

/-! ## Every step keeps the invariant -/

/-- The invariant says nothing of the free timing. -/
theorem retime_inv_iff (p : Pins) (s t : State) : (retime p s t).Inv ↔ t.Inv := Iff.rfl

theorem canTake_of_requestMoves {p : Pins} {s : State} (h : requestMoves p s = true) : canTake s = true := by
  rw [requestMoves, reqReady] at h
  simp only [Bool.and_eq_true] at h
  obtain ⟨-, -, hcan, -⟩ := h
  exact hcan

theorem clockEdge_keeps_inv {p : Pins} {s t : State} (hs : s.Inv) (h : clockEdge p s = .next t) : t.Inv := by
  rcases clockEdge_inv h with ⟨-, rfl⟩ | ⟨-, u, hu, rfl⟩
  · obtain ⟨hwf, hdel, -⟩ := (inv_iff s).1 hs
    exact inv_of_idle (resetEdge_idle s) hwf hdel
  · have hreq : u.Inv := by
      split at hu
      case isTrue hmoves => exact takeBeat_keeps_inv hs (canTake_of_requestMoves hmoves) hu
      case isFalse =>
        cases hu
        exact hs
    rw [retime_inv_iff]
    split
    · exact giveBeat_keeps_inv hreq
    · exact hreq

theorem exec_keeps_inv {i : Instr} {s t : State} (hs : s.Inv) (hbusy : s.busy = false) (h : exec i s = .next t) :
    t.Inv := by
  obtain ⟨hwf, hdel, -⟩ := (inv_iff s).1 hs
  obtain ⟨t', r, hexec, hidle, -, hgrow, -, hlegal, hcfg, -⟩ := everyOperationCompletes i s (hs.idle hbusy)
  cases hexec.symm.trans h
  refine inv_of_idle hidle (hcfg ▸ hwf) fun b hb => ?_
  rw [hgrow] at hb
  rcases List.mem_append.1 hb with hb | hb
  · exact hdel b hb
  · exact hlegal b hb

/-- Settles O42: each of the three things a step can do keeps the invariant, which says nothing of the inputs. -/
theorem everyStepKeepsTheInvariant : Obligations.EveryStepKeepsTheInvariant := by
  intro s t hs h
  have hinputs : ∀ left, State.Inv { s with inputs := left } := fun _ => hs
  rcases step_inv h with ⟨-, rfl⟩ | ⟨p, left, hedge⟩ | ⟨hbusy, i, left, -, hexec⟩
  · exact hs
  · exact clockEdge_keeps_inv (hinputs left) hedge
  · exact exec_keeps_inv (hinputs left) hbusy hexec

end Sys2Proof.Machine
end

section
/-! The toggle after any list of operations (R51), which lists of beats are requests (R40), and the outputs that do not
look at their own channel's other pin (R44). -/

namespace Sys2Proof.Machine

/-! ## Counting the flips -/

theorem execAll_cons {i : Instr} {s t : State} (h : exec i s = .next t) (is : List Instr) :
    execAll (i :: is) s = execAll is t := by
  rw [execAll, h, andThen]

/-- The toggle after a list of operations is the toggle before it, inverted once for each flipping one. -/
theorem execAll_toggle : ∀ (is : List Instr) {s : State}, s.Idle →
    ∃ t, execAll is s = .next t ∧ t.Idle ∧
      t.toggle = (s.toggle ^^ decide (is.countP (flipsToggle s.cfg) % 2 = 1))
  | [], s, hs => ⟨s, rfl, hs, by simp⟩
  | i :: is, s, hs => by
    obtain ⟨t, -, hexec, ht, htog, -, -, -, hcfg, -⟩ := everyOperationCompletes i s hs
    obtain ⟨u, hall, hu, hflips⟩ := execAll_toggle is ht
    refine ⟨u, (execAll_cons hexec is).trans hall, hu, ?_⟩
    rw [hflips, htog, hcfg, List.countP_cons]
    cases flipsToggle s.cfg i with
    | false => simp
    | true =>
      rcases Nat.mod_two_eq_zero_or_one (is.countP (flipsToggle s.cfg)) with h | h <;>
        simp [Nat.add_mod, h]

/-- Settles O33: from a clear toggle, the parity of the flips is the toggle. -/
theorem toggleCountsTheFlips : Obligations.ToggleCountsTheFlips := by
  intro is s hs hclear
  obtain ⟨t, hall, ht, hflips⟩ := execAll_toggle is hs
  exact ⟨t, hall, ht, by simp [hflips, hclear]⟩

/-! ## Requests -/

/-- Settles O35: the form of the list alone decides, for all eight codes read as operations. -/
theorem exactlyWholeRequestsDecode : Obligations.ExactlyWholeRequestsDecode := by
  intro bs
  constructor
  · rintro ⟨i, hdec⟩
    exact wholeRequest_of_decodeRequest hdec
  · intro hwhole
    cases bs with
    | nil => cases hwhole
    | cons b ps => exact ⟨_, decodeRequest_of_whole hwhole⟩

/-! ## Outputs -/

theorem outputs_reqReady (p : Pins) (s : State) : (outputs p s).reqReady = (!p.rst && reqReady s) := by
  cases h : p.rst <;> simp [outputs, h]

theorem outputs_rsp (p : Pins) (s : State) : (outputs p s).rsp = if p.rst then none else rspOffered p s := by
  cases h : p.rst <;> simp [outputs, h]

theorem outputs_rsp_of_not_rst {p : Pins} (h : p.rst = false) (s : State) : (outputs p s).rsp = rspOffered p s := by
  simp [outputs_rsp, h]

/-- What is offered does not look at `rsp_ready`: no part of it reads that pin (R44). -/
theorem rspOffered_withRspReady (p : Pins) (s : State) (b : Bool) :
    rspOffered { p with rspReady := b } s = rspOffered p s := rfl

/-- Settles O50. -/
theorem readyAndValidDoNotLoop : Obligations.ReadyAndValidDoNotLoop := by
  intro p s b
  constructor
  · rw [outputs_reqReady, outputs_reqReady]
  · rw [outputs_rsp, outputs_rsp, rspOffered_withRspReady]

end Sys2Proof.Machine
end

section
/-! The work at a request beat does not look at what stands in front of it in the response queue, at what has been
delivered, nor at the timing. So a request beat only appends to the response, and the two channels do not disturb each
other (R43, R46). -/

namespace Sys2Proof.Machine

/-! ## The host's view of the response, and the timing -/

/-- What the work at a request beat has no sight of: the response beats already due and already delivered, and the
timing counters. -/
structure PortView where
  queue : List RspBeat
  delivered : List RspBeat
  edges : Nat
  reqStall : Nat
  rspStall : Nat

/-- The state with the given beats due before its own, and with the given deliveries and counters. -/
def State.behind (s : State) (x : PortView) : State :=
  { s with
    rspOut := x.queue ++ s.rspOut
    delivered := x.delivered
    edges := x.edges
    reqStall := x.reqStall
    rspStall := x.rspStall }

/-- The state with nothing due. -/
def State.bare (s : State) : State := { s with rspOut := [] }

/-- What the ports of the state show and have shown. -/
def State.portView (s : State) : PortView := ⟨s.rspOut, s.delivered, s.edges, s.reqStall, s.rspStall⟩

theorem bare_behind (s : State) (x : PortView) : s.bare.behind x =
    { s with
      rspOut := x.queue, delivered := x.delivered, edges := x.edges, reqStall := x.reqStall
      rspStall := x.rspStall } := by
  simp [State.behind, State.bare]

theorem bare_behind_portView (s : State) : s.bare.behind s.portView = s := by
  rw [bare_behind]
  rfl

/-! ## Work that does not look at the ports -/

/-- The work gives the same, fault or state, whatever the ports show and have shown. -/
def PortBlind (w : State → Except Fault State) : Prop :=
  ∀ (x : PortView) (s : State), w (s.behind x) = (w s).map fun t => t.behind x

theorem PortBlind.bind {w k : State → Except Fault State} (hw : PortBlind w) (hk : PortBlind k) :
    PortBlind fun s => w s >>= k := by
  intro x s
  show w (s.behind x) >>= k = _
  rw [hw x s]
  show _ = (w s >>= k).map _
  cases w s with
  | error e => rfl
  | ok t => exact hk x t

theorem pgPair_portBlind (b : Byte) (k : ValueKind) : PortBlind (pgPair b k) := by
  intro x s
  cases hphase : s.pgPhase with
  | true =>
    have stop : ∀ u : State, u.pgPhase = true → pgPair b k u = .error .pairPending := fun u hu => by
      rw [pgPair, pgLoad, hu]; rfl
    rw [stop s hphase, stop (s.behind x) hphase]
    rfl
  | false =>
    rw [pgPair_ok hphase, pgPair_ok (s := s.behind x) hphase]
    simp [State.behind, Except.map]

theorem startFrame_portBlind (o : Byte) : PortBlind (startFrame o) := by
  intro x s
  have hbefore : emitPreamble (caAdd (transmitted s.toggle o) (caClear (tfApply o (s.behind x)).2)) =
      (emitPreamble (caAdd (transmitted s.toggle o) (caClear (tfApply o s).2))).behind x := by
    simp [emitPreamble, emit, caAdd, caClear, tfApply, State.behind]
  show pgPair _ .opcode (emitPreamble (caAdd (transmitted s.toggle o) (caClear (tfApply o (s.behind x)).2))) = _
  rw [hbefore, pgPair_portBlind]
  rfl

theorem addParam_portBlind (p : Byte) : PortBlind (addParam p) :=
  fun x s => pgPair_portBlind p .param x (caAdd p s)

theorem addParams_portBlind : ∀ ps : List Byte, PortBlind (addParams ps)
  | [] => fun _ _ => rfl
  | p :: ps => (addParam_portBlind p).bind (addParams_portBlind ps)

theorem sendTrailer_behind (st : BitVec 3) (s : State) (x : PortView) :
    sendTrailer st (s.behind x) = (sendTrailer st s).behind x := by
  simp [sendTrailer, State.behind]

theorem sendTrailer_portBlind (st : BitVec 3) : PortBlind fun s => .ok (sendTrailer st s) :=
  fun x s => congrArg Except.ok (sendTrailer_behind st s x)

theorem finishFrame_portBlind : PortBlind finishFrame :=
  PortBlind.bind (fun x s => pgPair_portBlind s.acc .checksum x s) (sendTrailer_portBlind statusOk)

theorem runDecode_portBlind (f : List Byte) : PortBlind (runDecode f) := by
  intro x s
  rcases decodeFrame_total f with ⟨-, hf⟩ | ⟨-, d, -, hf⟩
  · simp [runDecode, hf, raiseError, sendTrailer_behind, Except.map]
  · simp [runDecode, hf, emitAll, sendTrailer, State.behind, Except.map]

theorem runValidate_portBlind (f : List Byte) : PortBlind (runValidate f) := by
  intro x s
  obtain ⟨r, a, hf⟩ := validateFrame_verdict f
  cases he : r.toError <;> simp [runValidate, hf, he, raiseError, sendTrailer, State.behind, Except.map]

theorem openAction_portBlind (a : Action) (m : Byte) : PortBlind (openAction a m) := by
  intro x s
  cases hc : catalog s.cfg a m with
  | error e =>
    rw [openAction, openAction, show (s.behind x).cfg = s.cfg from rfl, hc]
    rfl
  | ok c =>
    rw [openAction, openAction, show (s.behind x).cfg = s.cfg from rfl, hc]
    exact (startFrame_portBlind c.opcode).bind (addParams_portBlind c.params) x s

theorem headerWork_portBlind (b : ReqBeat) : PortBlind (headerWork b) := by
  intro x s
  rw [headerWork, headerWork]
  split
  case h_1 => exact startFrame_portBlind b.data x s
  case h_7 | h_8 => rfl
  all_goals exact openAction_portBlind _ _ x s

theorem payloadWork_portBlind (b : ReqBeat) : PortBlind (payloadWork b) := by
  intro x s
  rw [payloadWork, payloadWork, show (s.behind x).opLat = s.opLat from rfl]
  split
  case h_1 => exact addParam_portBlind b.data x s
  all_goals rfl

theorem finishEncode_portBlind : PortBlind finishEncode := by
  intro x s
  rw [finishEncode, finishEncode, show (s.behind x).errLat = s.errLat from rfl]
  split
  · exact sendTrailer_portBlind _ x s
  · exact finishFrame_portBlind x s

theorem finishWork_portBlind : PortBlind finishWork := by
  intro x s
  rw [finishWork, finishWork, show (s.behind x).opLat = s.opLat from rfl]
  split
  case h_7 => exact runDecode_portBlind _ x s
  case h_8 => exact runValidate_portBlind _ x s
  all_goals exact finishEncode_portBlind x s

theorem finishIfLast_portBlind : ∀ last : Bool, PortBlind (finishIfLast last)
  | false => fun _ _ => rfl
  | true => finishWork_portBlind.bind fun _ _ => rfl

/-! ## Request beats do not look at the ports -/

theorem toOutcome_map_behind (r : Except Fault State) (x : PortView) :
    toOutcome (r.map fun t => t.behind x) = andThen (toOutcome r) fun t => .next (t.behind x) := by
  cases r <;> rfl

theorem takeBeat_behind (b : ReqBeat) (s : State) (x : PortView) :
    takeBeat b (s.behind x) = andThen (takeBeat b s) fun t => .next (t.behind x) := by
  rw [takeBeat, takeBeat, show (s.behind x).busy = s.busy from rfl,
    show beyondMaxLen (s.behind x) = beyondMaxLen s from rfl]
  split
  · split
    · rfl
    · rw [← toOutcome_map_behind]
      exact congrArg toOutcome ((payloadWork_portBlind b).bind (finishIfLast_portBlind b.last) x s)
  · rw [← toOutcome_map_behind]
    exact congrArg toOutcome
      ((headerWork_portBlind b).bind (finishIfLast_portBlind b.last) x (openTransaction b.op s))

theorem andThen_eq_next {o : Host.Outcome State Fault Refusal} {k : State → Host.Outcome State Fault Refusal}
    {t : State} (h : andThen o k = .next t) : ∃ u, o = .next u ∧ k u = .next t := by
  cases o with
  | next u => exact ⟨u, rfl, h⟩
  | fault e => cases h
  | refused r => cases h

/-- A request beat that moves appends to the response and takes nothing from it. -/
theorem takeBeat_rspOut {b : ReqBeat} {s t : State} (h : takeBeat b s = .next t) :
    ∃ r, t.rspOut = s.rspOut ++ r := by
  rw [← bare_behind_portView s, takeBeat_behind] at h
  obtain ⟨u, -, hu⟩ := andThen_eq_next h
  cases hu
  exact ⟨u.rspOut, rfl⟩

/-! ## One edge, channel by channel -/

/-- The request side of an edge appends to the response and stays inside the block. -/
theorem requestSide_inv {p : Pins} {s u : State} (h : requestSide p s = .next u) :
    SameOutside s u ∧ ∃ r, u.rspOut = s.rspOut ++ r := by
  rw [requestSide] at h
  split at h
  · exact ⟨takeBeat_sameOutside h, takeBeat_rspOut h⟩
  · cases h
    exact ⟨.refl _, [], by simp⟩

theorem requestSide_of_not_moves {p : Pins} {s : State} (h : requestMoves p s = false) :
    requestSide p s = .next s := by
  simp [requestSide, h]

/-- Everything an edge out of reset does: the request side, then the response side, then the timing. -/
theorem clockEdge_of_not_rst {p : Pins} {s t : State} (hrst : p.rst = false) (h : clockEdge p s = .next t) :
    ∃ u, requestSide p s = .next u ∧ t = retime p s (if responseMoves p s then giveBeat u else u) := by
  rcases clockEdge_inv h with ⟨hrst', -⟩ | ⟨-, hu⟩
  · simp [hrst] at hrst'
  · exact hu

theorem clockEdge_of_requestSide {p : Pins} {s u : State} (hrst : p.rst = false) (h : requestSide p s = .next u) :
    clockEdge p s = .next (retime p s (if responseMoves p s then giveBeat u else u)) := by
  simp [clockEdge, hrst, h]

/-- The response beat offered in a cycle is the first one due once the request side has been dealt with, also when it
is offered in the very cycle of its cause. -/
theorem rspOffered_eq_head {p : Pins} {s u : State} {b : RspBeat} (hu : requestSide p s = .next u)
    (h : rspOffered p s = some b) : ∃ r, u.rspOut = b :: r := by
  obtain ⟨-, r, hout⟩ := requestSide_inv hu
  rw [rspOffered] at h
  split at h
  · split at h
    · rw [hu, frontBeat] at h
      exact List.head?_eq_some_iff.1 (Option.filter_eq_some_iff.1 h).1
    · cases h
  · split at h
    · obtain ⟨q, hq⟩ := List.head?_eq_some_iff.1 h
      exact ⟨q ++ r, by rw [hout, hq, List.cons_append]⟩
    · cases h

theorem requestMoves_iff (p : Pins) (s : State) :
    requestMoves p s = true ↔ p.rst = false ∧ p.reqValid = true ∧ (outputs p s).reqReady = true := by
  cases hrst : p.rst <;> simp [requestMoves, outputs_reqReady, hrst]

theorem responseMoves_iff (p : Pins) (s : State) :
    responseMoves p s = true ↔ p.rst = false ∧ p.rspReady = true ∧ (outputs p s).rsp.isSome = true := by
  cases hrst : p.rst <;> simp [responseMoves, outputs_rsp, hrst]

theorem responseMoves_of_rst {p : Pins} (h : p.rst = true) (s : State) : responseMoves p s = false := by
  simp [responseMoves, h]

theorem giveBeat_of_cons {s : State} {b : RspBeat} {r : List RspBeat} (h : s.rspOut = b :: r) :
    giveBeat s = { s with rspOut := r, delivered := s.delivered ++ [b], busy := s.busy && !b.last } := by
  simp only [giveBeat, h]

theorem retime_sameButTiming (p : Pins) (s t : State) : sameButTiming t (retime p s t) := rfl

/-- What an edge delivers is the beat offered, where that one moves. -/
theorem clockEdge_delivered {p : Pins} {s t : State} (h : clockEdge p s = .next t) :
    t.delivered = s.delivered ++ (if responseMoves p s then (outputs p s).rsp.toList else []) := by
  cases hrst : p.rst with
  | true =>
    cases (clockEdge_of_rst hrst s).symm.trans h
    simp [responseMoves_of_rst hrst]
  | false =>
    obtain ⟨u, hu, rfl⟩ := clockEdge_of_not_rst hrst h
    obtain ⟨hsame, -⟩ := requestSide_inv hu
    cases hmoves : responseMoves p s with
    | false => simp [hsame.delivered]
    | true =>
      obtain ⟨-, -, hsome⟩ := (responseMoves_iff p s).1 hmoves
      obtain ⟨b, hb⟩ := Option.isSome_iff_exists.1 hsome
      obtain ⟨r, hout⟩ := rspOffered_eq_head hu ((outputs_rsp_of_not_rst hrst s).symm.trans hb)
      simp [hb, giveBeat_of_cons hout, hsame.delivered]

/-- Settles O48. -/
theorem oneBeatPerChannelPerEdge : Obligations.OneBeatPerChannelPerEdge := by
  intro p s t h
  refine ⟨requestMoves_iff p s, fun hmoves => ?_, responseMoves_iff p s, fun hrst => ?_, clockEdge_delivered h⟩
  · simpa [canTake] using canTake_of_requestMoves hmoves
  · obtain ⟨u, hu, rfl⟩ := clockEdge_of_not_rst hrst h
    refine ⟨u, ?_, retime_sameButTiming p s _⟩
    cases hmoves : requestMoves p s with
    | true => simpa [requestSide, hmoves] using hu
    | false => simpa [requestSide, hmoves, eq_comm] using hu

/-! ## The hold rule -/

theorem responseMoves_of_not_ready {p : Pins} (h : p.rspReady = false) (s : State) : responseMoves p s = false := by
  simp [responseMoves, h]

/-- An offer that does not move leaves the beat due with no delay (R44). -/
theorem retime_rspStall_of_offered {p : Pins} {s : State} (hsome : (rspOffered p s).isSome = true)
    (hmoves : responseMoves p s = false) (t : State) : (retime p s t).rspStall = 0 := by
  simp [retime, hsome, hmoves]

/-- A beat due with no delay left is offered, whatever the pins show. -/
theorem rspOffered_of_due {s : State} {b : RspBeat} {r : List RspBeat} (hout : s.rspOut = b :: r)
    (hstall : s.rspStall = 0) (p : Pins) : rspOffered p s = some b := by
  simp [rspOffered, hout, hstall]

/-- A beat offered and not moved is offered after the edge too. -/
theorem rspOffered_held {p : Pins} {s t : State} {b : RspBeat} (hrst : p.rst = false)
    (hmoves : responseMoves p s = false) (hb : rspOffered p s = some b) (h : clockEdge p s = .next t) (q : Pins) :
    rspOffered q t = some b := by
  obtain ⟨u, hu, rfl⟩ := clockEdge_of_not_rst hrst h
  obtain ⟨r, hout⟩ := rspOffered_eq_head hu hb
  have hstall := retime_rspStall_of_offered (by simp [hb]) hmoves u
  rw [hmoves]
  exact rspOffered_of_due (s := retime p s u) hout hstall q

/-- Settles O49. -/
theorem offeredBeatIsHeld : Obligations.OfferedBeatIsHeld := by
  intro p q s t b hp hq hready hb h
  rw [outputs_rsp_of_not_rst hp] at hb
  rw [outputs_rsp_of_not_rst hq]
  exact rspOffered_held hp (responseMoves_of_not_ready hready s) hb h q

end Sys2Proof.Machine
end

section
/-! No good state stops (R31, R91, R92): each piece of work succeeds from `pg_phase = 0`, and the one thing turned away
is a DECODE beyond `MAX_DECODE_LEN` (U4, log 5). -/

namespace Sys2Proof.Machine

/-! ## The limit on DECODE -/

theorem fits_of_maxDecodeLen_eq_none {c : Config} (h : c.maxDecodeLen = none) (n : Nat) : c.fits n = true := by
  rw [Config.fits, h]

theorem limit_of_not_fits {c : Config} {n : Nat} (h : c.fits n = false) : c.maxDecodeLen ≠ none := by
  intro hnone
  simp [fits_of_maxDecodeLen_eq_none hnone] at h

theorem fits_mono {c : Config} {m n : Nat} (hmn : m ≤ n) (h : c.fits n = true) : c.fits m = true := by
  cases hc : c.maxDecodeLen with
  | none => exact fits_of_maxDecodeLen_eq_none hc m
  | some k =>
    simp only [Config.fits, hc, decide_eq_true_eq] at h ⊢
    omega

/-- The only operation the contract does not cover is a DECODE that does not fit (R202). -/
theorem limit_of_not_wf {i : Instr} {c : Config} (h : i.wf c = false) : c.maxDecodeLen ≠ none := by
  cases i with
  | decode f => exact limit_of_not_fits h
  | encode o ps | ping | stopAll | beep | motorOn m | motorOff m | validate f => cases h

theorem limit_of_beyondMaxLen {s : State} (h : beyondMaxLen s = true) : s.cfg.maxDecodeLen ≠ none := by
  simp only [beyondMaxLen, Bool.and_eq_true, Bool.not_eq_true'] at h
  obtain ⟨-, hfits⟩ := h
  exact limit_of_not_fits hfits

/-! ## No work of the ports stops -/

/-- The answer is a next state, or it turns a DECODE away on an instance with a limit (U4). -/
def GoesOn (c : Config) (o : Host.Outcome State Fault Refusal) : Prop :=
  (∃ t, o = .next t) ∨ (o = .refused .decodeBeyondMaxLen ∧ c.maxDecodeLen ≠ none)

theorem openAction_total {s : State} (h : s.pgPhase = false) (a : Action) (m : Byte) :
    ∃ t, openAction a m s = .ok t := by
  rcases openAction_ok h a m with ⟨c, -, hc⟩ | ⟨-, -, hc⟩
  · exact ⟨_, hc⟩
  · exact ⟨_, hc⟩

theorem headerWork_total {s : State} (h : s.pgPhase = false) (b : ReqBeat) : ∃ t, headerWork b s = .ok t := by
  rw [headerWork]
  split
  case h_1 => exact ⟨_, startFrame_ok h b.data⟩
  case h_7 | h_8 => exact ⟨s, rfl⟩
  all_goals exact openAction_total h _ b.data

theorem payloadWork_total {s : State} (h : s.pgPhase = false) (b : ReqBeat) : ∃ t, payloadWork b s = .ok t := by
  rcases payloadWork_ok h b with ⟨-, hw⟩ | ⟨-, hw⟩ | ⟨-, -, hw⟩
  · exact ⟨_, hw⟩
  · exact ⟨_, hw⟩
  · exact ⟨_, hw⟩

theorem finishIfLast_total {s : State} (h : s.pgPhase = false) (last : Bool) :
    ∃ t, finishIfLast last s = .ok t := by
  cases last with
  | false => exact ⟨s, rfl⟩
  | true =>
    obtain ⟨r, st, a, p, hw, -, -⟩ := finishWork_ok h
    exact ⟨_, by rw [finishIfLast, if_pos rfl, hw]; rfl⟩

/-- A good block that takes request beats is idle, or in the middle of a request. -/
theorem State.Inv.taking {s : State} (hs : s.Inv) (hcan : canTake s = true) (hbusy : s.busy = true) : s.Taking := by
  have hopen : s.reqOpen = true := by simpa [canTake, hbusy] using hcan
  obtain ⟨-, -, hidle | htaking | hsending⟩ := (inv_iff s).1 hs
  · exact absurd (hbusy.symm.trans hidle.not_busy) (by simp)
  · exact htaking
  · exact absurd (hopen.symm.trans hsending.reqOpen) (by simp)

/-- A request beat that a good block may take is taken, but for one beyond `MAX_DECODE_LEN`. -/
theorem takeBeat_goesOn {s : State} (hs : s.Inv) (hcan : canTake s = true) (b : ReqBeat) :
    GoesOn s.cfg (takeBeat b s) := by
  have finish : ∀ {w : Except Fault State} {u : State}, w = .ok u → u.Taking →
      ∃ t, toOutcome (w >>= finishIfLast b.last) = .next t := by
    rintro w u rfl hu
    obtain ⟨t, ht⟩ := finishIfLast_total hu.pgPhase b.last
    exact ⟨t, by rw [ok_bind, ht]; rfl⟩
  cases hbusy : s.busy with
  | false =>
    have hidle := hs.idle hbusy
    obtain ⟨u, hu⟩ := headerWork_total (openTransaction_taking b.op hidle).pgPhase b
    left
    rw [takeBeat, hbusy]
    exact finish hu (headerWork_taking hidle hu)
  | true =>
    have htaking := hs.taking hcan hbusy
    cases hmax : beyondMaxLen s with
    | true => exact .inr ⟨by simp [takeBeat, hbusy, hmax], limit_of_beyondMaxLen hmax⟩
    | false =>
      obtain ⟨u, hu⟩ := payloadWork_total htaking.pgPhase b
      left
      rw [takeBeat, hbusy, if_pos rfl, hmax]
      exact finish hu (payloadWork_taking htaking hmax hu)

/-! ## No step stops -/

theorem clockEdge_goesOn {s : State} (hs : s.Inv) (p : Pins) : GoesOn s.cfg (clockEdge p s) := by
  cases hrst : p.rst with
  | true => exact .inl ⟨_, clockEdge_of_rst hrst s⟩
  | false =>
    cases hmoves : requestMoves p s with
    | false => exact .inl ⟨_, clockEdge_of_requestSide hrst (requestSide_of_not_moves hmoves)⟩
    | true =>
      have hside : requestSide p s = takeBeat p.req s := by rw [requestSide, if_pos hmoves]
      rcases takeBeat_goesOn hs (canTake_of_requestMoves hmoves) p.req with ⟨u, hu⟩ | ⟨href, hlimit⟩
      · exact .inl ⟨_, clockEdge_of_requestSide hrst (hside.trans hu)⟩
      · exact .inr ⟨by simp [clockEdge, hrst, hside, href], hlimit⟩

theorem offerEdge_goesOn {s : State} (hs : s.Inv) (b : ReqBeat) (rest : List HostInput) :
    GoesOn s.cfg (offerEdge b rest s) := by
  obtain ⟨left, hedge⟩ := offerEdge_eq b rest s
  rw [hedge]
  exact clockEdge_goesOn (s := { s with inputs := left }) hs (offering b)

theorem runRequest_goesOn {s : State} (hs : s.Inv) (hbusy : s.busy = false) (bs : List ReqBeat) (b : ReqBeat)
    (rest after : List HostInput) : GoesOn s.cfg (runRequest bs b rest s { s with inputs := after }) := by
  rw [runRequest]
  split
  · rename_i i _
    cases hwf : i.wf s.cfg with
    | true =>
      obtain ⟨t, -, hexec, -⟩ := everyOperationCompletes i { s with inputs := after } (hs.idle hbusy)
      exact .inl ⟨t, hexec⟩
    | false => exact .inr ⟨rfl, limit_of_not_wf hwf⟩
  · exact offerEdge_goesOn hs b rest

/-- Settles O43: each of the three things a step can do goes on from a good state. -/
theorem goodStatesNeverStop : Obligations.GoodStatesNeverStop := by
  intro s hs
  show GoesOn s.cfg (step s)
  rw [step, nextStep]
  split
  · exact .inl ⟨s, rfl⟩
  · rename_i p rest _
    exact clockEdge_goesOn (s := { s with inputs := rest }) hs p
  · rename_i b rest _
    split
    · exact offerEdge_goesOn hs b rest
    · rename_i hbusy
      split
      · exact runRequest_goesOn hs (Bool.eq_false_of_not_eq_true hbusy) _ b rest _
      · exact offerEdge_goesOn hs b rest

end Sys2Proof.Machine
end

section
/-! A request taken beat by beat is the operation it asks for (R46): the beats run the header's work, the payload's and
the end's, one after the other, and that is what the operation runs at once, up to what the closing of the request
throws away. -/

namespace Sys2Proof.Machine

/-! ## The work of a whole request -/

/-- The work of payload beats, one after the other. -/
def payloadsWork : List ReqBeat → State → Except Fault State
  | [], s => .ok s
  | b :: bs, s => payloadWork b s >>= payloadsWork bs

/-- Work, and then the request closed. -/
def closing (w : State → Except Fault State) (s : State) : Except Fault State := w s >>= fun t => .ok (closeRequest t)

/-- The work of the payload and of the end of a request. -/
def restWork (ps : List ReqBeat) (s : State) : Except Fault State := payloadsWork ps s >>= closing finishWork

theorem finishIfLast_true : finishIfLast true = closing finishWork := rfl

theorem andThen_next (o : Host.Outcome State Fault Refusal) : andThen o .next = o := by cases o <;> rfl

theorem wholeRequest_cons_cons (b c : ReqBeat) (r : List ReqBeat) :
    wholeRequest (b :: c :: r) = (!b.last && wholeRequest (c :: r)) := rfl

theorem not_wholeRequest_nil : wholeRequest [] ≠ true := by simp [wholeRequest]

/-! ## Taking the beats is doing the work -/

theorem takeBeat_of_not_busy {s : State} (h : s.busy = false) (b : ReqBeat) :
    takeBeat b s = toOutcome (headerWork b (openTransaction b.op s) >>= finishIfLast b.last) := by
  simp [takeBeat, h]

theorem takeBeat_of_busy {s : State} (h : s.busy = true) (hmax : beyondMaxLen s = false) (b : ReqBeat) :
    takeBeat b s = toOutcome (payloadWork b s >>= finishIfLast b.last) := by
  simp [takeBeat, h, hmax]

theorem beyondMaxLen_of_fits {s : State}
    (h : OpSel.ofCode s.opLat = .decode → s.cfg.fits (s.frameBuf.length + 1) = true) : beyondMaxLen s = false := by
  cases ho : OpSel.ofCode s.opLat <;> simp_all [beyondMaxLen]

/-- A payload beat keeps the operation, and DECODE keeps at most that one byte more. -/
theorem payloadWork_opLat {s t : State} {b : ReqBeat} (hphase : s.pgPhase = false) (h : payloadWork b s = .ok t) :
    t.opLat = s.opLat ∧ t.frameBuf.length ≤ s.frameBuf.length + 1 := by
  rcases payloadWork_ok hphase b with ⟨-, hw⟩ | ⟨-, hw⟩ | ⟨-, -, hw⟩ <;> cases hw.symm.trans h <;> simp

/-- The header beat keeps no frame byte and the code it brought. -/
theorem headerWork_opLat {s t : State} {b : ReqBeat} (hphase : s.pgPhase = false) (h : headerWork b s = .ok t) :
    t.opLat = s.opLat ∧ t.frameBuf = s.frameBuf := by
  have action : ∀ a, openAction a b.data s = .ok t → t.opLat = s.opLat ∧ t.frameBuf = s.frameBuf := by
    intro a ha
    rcases openAction_ok hphase a b.data with ⟨c, -, hc⟩ | ⟨-, -, hc⟩ <;> cases hc.symm.trans ha <;> exact ⟨rfl, rfl⟩
  rw [headerWork] at h
  split at h
  case h_1 =>
    cases (startFrame_ok hphase b.data).symm.trans h
    exact ⟨rfl, rfl⟩
  case h_7 | h_8 =>
    cases h
    exact ⟨rfl, rfl⟩
  all_goals exact action _ h

/-- The payload beats of an open request, taken one by one, up to the last of them. -/
theorem takeBeats_eq_restWork : ∀ {ps : List ReqBeat} {s : State}, s.Taking → wholeRequest ps = true →
    (OpSel.ofCode s.opLat = .decode → s.cfg.fits (s.frameBuf.length + ps.length) = true) →
    takeBeats ps s = toOutcome (restWork ps s)
  | [], _, _, hwhole, _ => absurd hwhole not_wholeRequest_nil
  | b :: ps, s, hs, hwhole, hfits => by
    have hmax : beyondMaxLen s = false :=
      beyondMaxLen_of_fits fun ho => fits_mono (by simp) (hfits ho)
    obtain ⟨t, ht⟩ := payloadWork_total hs.pgPhase b
    rw [takeBeats, takeBeat_of_busy hs.busy hmax, restWork, payloadsWork, ht, ok_bind, ok_bind]
    cases ps with
    | nil =>
      rw [show b.last = true from hwhole, finishIfLast_true]
      exact andThen_next _
    | cons c r =>
      obtain ⟨hlast, hrest⟩ : b.last = false ∧ wholeRequest (c :: r) = true := by
        simpa [wholeRequest_cons_cons] using hwhole
      obtain ⟨hop, hlen⟩ := payloadWork_opLat hs.pgPhase ht
      have hcfg := (payloadWork_sameOutside ht).cfg
      rw [hlast]
      refine takeBeats_eq_restWork (payloadWork_taking hs hmax ht) hrest fun ho => ?_
      rw [hcfg]
      exact fits_mono (by simp only [List.length_cons]; omega) (hfits (hop ▸ ho))

/-- A whole request taken beat by beat on an idle block. -/
theorem takeBeats_eq_requestWork {s : State} {h : ReqBeat} {ps : List ReqBeat} (hs : s.Idle)
    (hwhole : wholeRequest (h :: ps) = true)
    (hfits : OpSel.ofCode h.op = .decode → s.cfg.fits ps.length = true) :
    takeBeats (h :: ps) s = toOutcome (headerWork h (openTransaction h.op s) >>= restWork ps) := by
  have hphase := (openTransaction_taking h.op hs).pgPhase
  obtain ⟨t, ht⟩ := headerWork_total hphase h
  rw [takeBeats, takeBeat_of_not_busy hs.not_busy, ht, ok_bind, ok_bind]
  cases ps with
  | nil =>
    rw [show h.last = true from hwhole, finishIfLast_true]
    exact andThen_next _
  | cons c r =>
    obtain ⟨hlast, hrest⟩ : h.last = false ∧ wholeRequest (c :: r) = true := by
      simpa [wholeRequest_cons_cons] using hwhole
    obtain ⟨hop, hbuf⟩ := headerWork_opLat hphase ht
    have hcfg := (headerWork_sameOutside ht).cfg
    rw [hlast]
    refine takeBeats_eq_restWork (headerWork_taking hs ht) hrest fun ho => ?_
    rw [hcfg, hbuf, openTransaction_frameBuf, List.length_nil, Nat.zero_add]
    exact hfits (by rwa [hop] at ho)

/-! ## What the payload beats do, operation by operation -/

/-- ENCODE sends each payload byte as a parameter. -/
theorem payloadsWork_of_encode : ∀ (ps : List ReqBeat) {s : State}, OpSel.ofCode s.opLat = .encode →
    s.pgPhase = false → payloadsWork ps s = addParams (ps.map ReqBeat.data) s
  | [], _, _, _ => rfl
  | b :: ps, s, ho, hphase => by
    have hb : payloadWork b s = addParam b.data s := by simp [payloadWork, ho]
    rw [payloadsWork, List.map_cons, addParams, hb, addParam_ok hphase, ok_bind, ok_bind]
    exact payloadsWork_of_encode ps ho hphase

/-- DECODE and VALIDATE keep every payload byte. -/
theorem payloadsWork_of_collects : ∀ (ps : List ReqBeat) {s : State}, s.collects = true →
    payloadsWork ps s = .ok { s with frameBuf := s.frameBuf ++ ps.map ReqBeat.data }
  | [], s, _ => by simp [payloadsWork]
  | b :: ps, s, hc => by
    have hb : payloadWork b s = .ok { s with frameBuf := s.frameBuf ++ [b.data] } := by
      cases ho : OpSel.ofCode s.opLat <;> simp_all [payloadWork, State.collects]
    have htail := payloadsWork_of_collects ps (s := { s with frameBuf := s.frameBuf ++ [b.data] }) hc
    rw [payloadsWork, hb, ok_bind, htail, List.map_cons, List.append_assoc, List.singleton_append]

/-- Stray payload of a catalog operation does nothing (R148). -/
theorem payloadsWork_of_stray : ∀ (ps : List ReqBeat) {s : State}, OpSel.ofCode s.opLat ≠ .encode →
    s.collects = false → payloadsWork ps s = .ok s
  | [], _, _, _ => rfl
  | b :: ps, s, ho, hc => by
    have hb : payloadWork b s = .ok s := by
      cases hsel : OpSel.ofCode s.opLat <;> simp_all [payloadWork, State.collects]
    rw [payloadsWork, hb, ok_bind, payloadsWork_of_stray ps ho hc]

/-! ## What the end of the request does -/

theorem finishWork_of_not_collects {s : State} (h : s.collects = false) : finishWork s = finishEncode s := by
  cases ho : OpSel.ofCode s.opLat <;> simp_all [finishWork, State.collects]

/-- The end of a frame that no error has kept from being begun. -/
theorem finishWork_of_frame {s : State} (hc : s.collects = false) (herr : s.errLat = none) :
    finishWork s = finishFrame s := by
  rw [finishWork_of_not_collects hc, finishEncode, herr]

/-- The end of a catalog operation that kept an error is that error's trailer. -/
theorem finishWork_of_error {s : State} {e : ErrorKind} (hc : s.collects = false) (herr : s.errLat = some e) :
    finishWork s = .ok (raiseError e s) := by
  rw [finishWork_of_not_collects hc, finishEncode, herr]

/-! ## The work at the beats is the operation -/

/-- The opening of a frame and its parameters keep the operation and the error latch. -/
theorem startFrame_keeps {s : State} (h : s.pgPhase = false) (o : Byte) :
    ∃ t, startFrame o s = .ok t ∧ t.pgPhase = false ∧ t.opLat = s.opLat ∧ t.errLat = s.errLat :=
  ⟨_, startFrame_ok h o, h, rfl, rfl⟩

theorem addParams_keeps {s : State} (h : s.pgPhase = false) (ps : List Byte) :
    ∃ t, addParams ps s = .ok t ∧ t.pgPhase = false ∧ t.opLat = s.opLat ∧ t.errLat = s.errLat :=
  ⟨_, addParams_ok ps h, h, rfl, rfl⟩

theorem collects_eq_of_opLat {s t : State} (h : t.opLat = s.opLat) : t.collects = s.collects := by
  rw [State.collects, State.collects, h]

/-- ENCODE, cut where its request beats fall (R115). -/
theorem encode_beatByBeat {s : State} (d : Byte) (ps : List ReqBeat) (hphase : s.pgPhase = false)
    (ho : OpSel.ofCode s.opLat = .encode) (herr : s.errLat = none) :
    startFrame d s >>= restWork ps = closing (runCommand ⟨d, ps.map ReqBeat.data⟩) s := by
  have hc : s.collects = false := by simp [State.collects, ho]
  obtain ⟨t, ht, hphase', hop, herr'⟩ := startFrame_keeps hphase d
  obtain ⟨u, hu, -, hop', herr''⟩ := addParams_keeps hphase' (ps.map ReqBeat.data)
  have hcu : u.collects = false := (collects_eq_of_opLat (hop'.trans hop)).trans hc
  have herru : u.errLat = none := herr''.trans (herr'.trans herr)
  rw [closing, runCommand, ht, ok_bind, ok_bind, restWork, payloadsWork_of_encode ps (hop ▸ ho) hphase', hu, ok_bind,
    ok_bind, closing, finishWork_of_frame hcu herru]

/-- A catalog operation, cut where its request beats fall, whatever stray payload comes (R148). -/
theorem action_beatByBeat {s : State} (a : Action) (m : Byte) (ps : List ReqBeat) (hphase : s.pgPhase = false)
    (ho : OpSel.ofCode s.opLat ≠ .encode) (hc : s.collects = false) (herr : s.errLat = none) :
    openAction a m s >>= restWork ps = closing (runAction a m) s := by
  cases hcat : catalog s.cfg a m with
  | error e =>
    rw [closing, openAction, runAction, hcat]
    show restWork ps { s with errLat := some e } = .ok (closeRequest (raiseError e s))
    rw [restWork, payloadsWork_of_stray (s := { s with errLat := some e }) ps ho hc, ok_bind, closing,
      finishWork_of_error (s := { s with errLat := some e }) hc rfl]
    rfl
  | ok c =>
    rw [closing, openAction, runAction, hcat]
    show startFrame c.opcode s >>= addParams c.params >>= restWork ps = runCommand c s >>= _
    obtain ⟨t, ht, hphase', hop, herr'⟩ := startFrame_keeps hphase c.opcode
    obtain ⟨u, hu, -, hop', herr''⟩ := addParams_keeps hphase' c.params
    have hopu : u.opLat = s.opLat := hop'.trans hop
    have hcu : u.collects = false := (collects_eq_of_opLat hopu).trans hc
    have herru : u.errLat = none := herr''.trans (herr'.trans herr)
    rw [runCommand, ht, ok_bind, ok_bind, hu, ok_bind, ok_bind, restWork,
      payloadsWork_of_stray ps (hopu.symm ▸ ho) hcu, ok_bind, closing, finishWork_of_frame hcu herru]

/-- Work with an answer does not look at the frame bytes kept, and closing the request drops them. -/
theorem closing_withFrameBuf {body : State → Except Fault State} {flips : Bool} {s : State}
    (h : HasAnswer body s.cfg s.toggle flips) (hphase : s.pgPhase = false) (f : List Byte) :
    closing body { s with frameBuf := f } = closing body s := by
  obtain ⟨A, -, -, hbody⟩ := h
  rw [closing, closing, hbody s hphase rfl rfl, hbody { s with frameBuf := f } hphase rfl rfl]
  rfl

/-- DECODE and VALIDATE do all their work at the last request beat (R122, R128). -/
theorem collected_beatByBeat {s : State} {body : List Byte → State → Except Fault State} {flips : Bool}
    (ps : List ReqBeat) (hphase : s.pgPhase = false) (hc : s.collects = true) (hbuf : s.frameBuf = [])
    (hfinish : ∀ t : State, t.opLat = s.opLat → finishWork t = body t.frameBuf t)
    (hanswer : HasAnswer (body (ps.map ReqBeat.data)) s.cfg s.toggle flips) :
    restWork ps s = closing (body (ps.map ReqBeat.data)) s := by
  rw [restWork, payloadsWork_of_collects ps hc, ok_bind, hbuf, List.nil_append, closing,
    hfinish { s with frameBuf := ps.map ReqBeat.data } rfl]
  exact closing_withFrameBuf hanswer hphase _

/-- A whole operation is its work, the request closed, and the response handed over. -/
theorem transact_eq_closing (op : OpSel) (body : State → Except Fault State) (s : State) :
    transact op body s =
      andThen (toOutcome (closing body (openTransaction op.code s))) fun t => .next (deliverAll t) := by
  rw [transact, closing]
  cases body (openTransaction op.code s) <;> rfl

/-- Work that comes to the same once the request is closed is the same operation with its response handed over. -/
theorem handOver_eq_transact {op : OpSel} {work : Except Fault State} {body : State → Except Fault State} {s : State}
    (h : work = closing body (openTransaction op.code s)) :
    (andThen (toOutcome work) fun t => .next (deliverAll t)) = transact op body s := by
  rw [transact_eq_closing, h]

/-- The work at the beats of a request, with the response then handed over, is exec of what the request asks for. -/
theorem requestWork_eq_exec {s : State} (hs : s.Idle) (h : ReqBeat) (ps : List ReqBeat) :
    (andThen (toOutcome (headerWork h (openTransaction h.op s) >>= restWork ps)) fun t => .next (deliverAll t)) =
      exec (readRequest (OpSel.ofCode h.op) h.data (ps.map ReqBeat.data)) s := by
  have hphase := (openTransaction_taking h.op hs).pgPhase
  have hcode : ∀ {op : OpSel}, OpSel.ofCode h.op = op → openTransaction h.op s = openTransaction op.code s := by
    rintro op rfl
    rw [code_ofCode]
  cases ho : OpSel.ofCode h.op <;> simp only [headerWork, ho]
  case encode =>
    exact handOver_eq_transact ((encode_beatByBeat h.data ps hphase ho rfl).trans (congrArg _ (hcode ho)))
  case decode =>
    have hwork := collected_beatByBeat (body := runDecode) ps hphase (by simp [State.collects, ho]) rfl
      (fun t ht => by simp [finishWork, ht, ho]) (runDecode_hasAnswer _ _ _)
    exact handOver_eq_transact (hwork.trans (congrArg _ (hcode ho)))
  case validate =>
    have hwork := collected_beatByBeat (body := runValidate) ps hphase (by simp [State.collects, ho]) rfl
      (fun t ht => by simp [finishWork, ht, ho]) (runValidate_hasAnswer _ _ _)
    exact handOver_eq_transact (hwork.trans (congrArg _ (hcode ho)))
  case ping | stopAll | beep | motorOn | motorOff =>
    have hwork := fun a => action_beatByBeat a h.data ps hphase (by simp [ho]) (by simp [State.collects, ho]) rfl
    exact handOver_eq_transact ((hwork _).trans (congrArg _ (hcode ho)))

/-- Settles O52: the beats do the work of the request, and that work is the operation. -/
theorem beatByBeatIsTheOperation : Obligations.BeatByBeatIsTheOperation := by
  intro bs i s hs hbusy hdec hwf
  have hidle := hs.idle hbusy
  have hwhole := wholeRequest_of_decodeRequest hdec
  cases bs with
  | nil => exact absurd hwhole not_wholeRequest_nil
  | cons h ps =>
    obtain rfl := Except.ok.inj ((decodeRequest_of_whole hwhole).symm.trans hdec)
    have hfits : OpSel.ofCode h.op = .decode → s.cfg.fits ps.length = true := by
      intro ho
      simpa [ho, readRequest, Instr.wf] using hwf
    rw [completeWith, takeBeats_eq_requestWork hidle hwhole hfits, requestWork_eq_exec hidle]

end Sys2Proof.Machine
end

section
/-! What a transaction comes to does not depend on the edges it takes (R43, R46): every edge without reset keeps the
state that taking the beats that are left, and handing over what is due, would bring about. -/

namespace Sys2Proof.Machine

/-! ## Equal but for the timing -/

theorem sameButTiming_refl (s : State) : sameButTiming s s := rfl

theorem sameButTiming_trans {s t u : State} (h : sameButTiming s t) (h' : sameButTiming t u) : sameButTiming s u := by
  rw [sameButTiming] at *
  rw [← h', ← h]

/-! ## Completing a transaction does not look at the ports -/

theorem takeBeats_behind : ∀ (bs : List ReqBeat) (s : State) (x : PortView),
    takeBeats bs (s.behind x) = andThen (takeBeats bs s) fun t => .next (t.behind x)
  | [], _, _ => rfl
  | b :: bs, s, x => by
    rw [takeBeats, takeBeats, takeBeat_behind]
    cases takeBeat b s with
    | next t => exact takeBeats_behind bs t x
    | fault e => rfl
    | refused r => rfl

/-- Two views of the ports that come to the same deliveries. -/
def PortView.SameTotal (x y : PortView) : Prop := x.delivered ++ x.queue = y.delivered ++ y.queue

theorem deliverAll_behind {x y : PortView} (h : x.SameTotal y) (s : State) :
    sameButTiming (deliverAll (s.behind x)) (deliverAll (s.behind y)) := by
  rw [PortView.SameTotal] at h
  simp [sameButTiming, deliverAll, State.behind, ← List.append_assoc, h]

/-- Completing a transaction comes to the same, but for the timing, wherever its due response beats stand. -/
theorem completeWith_behind {bs : List ReqBeat} {s v : State} {x y : PortView} (hxy : x.SameTotal y)
    (h : completeWith bs (s.behind x) = .next v) :
    ∃ w, completeWith bs (s.behind y) = .next w ∧ sameButTiming v w := by
  rw [completeWith, takeBeats_behind] at h
  obtain ⟨t, ht, hv⟩ := andThen_eq_next h
  obtain ⟨u, hu, hut⟩ := andThen_eq_next ht
  cases hut
  cases hv
  exact ⟨deliverAll (u.behind y), by rw [completeWith, takeBeats_behind, hu]; rfl, deliverAll_behind hxy u⟩

theorem completeWith_nil (s : State) : completeWith [] s = .next (deliverAll s) := rfl

theorem completeWith_cons {b : ReqBeat} {s t : State} (h : takeBeat b s = .next t) (bs : List ReqBeat) :
    completeWith (b :: bs) s = completeWith bs t := by
  rw [completeWith, completeWith, takeBeats, h, andThen]

/-- A request that completes is taken at its first beat. -/
theorem takeBeat_of_completeWith {b : ReqBeat} {bs : List ReqBeat} {s v : State}
    (h : completeWith (b :: bs) s = .next v) : ∃ t, takeBeat b s = .next t := by
  rw [completeWith, takeBeats] at h
  obtain ⟨u, hu, -⟩ := andThen_eq_next h
  obtain ⟨t, ht, -⟩ := andThen_eq_next hu
  exact ⟨t, ht⟩

theorem deliverAll_giveBeat (s : State) : deliverAll (giveBeat s) = deliverAll s := by
  rcases giveBeat_cases s with ⟨-, h⟩ | ⟨b, r, hout, h⟩
  · rw [h]
  · rw [h]
    simp [deliverAll, hout]

theorem deliverAll_of_idle {s : State} (hs : s.Idle) : deliverAll s = s := by
  obtain ⟨hbusy, -, -, -, -, hout⟩ := hs
  cases s
  simp_all [deliverAll]

/-! ## The beats that are left -/

/-- The beats are what is left to take: a rest of the open request, or, with no request open, nothing or a whole
request for an idle block. -/
structure State.Awaits (s : State) (bs : List ReqBeat) : Prop where
  ofOpen : s.reqOpen = true → wholeRequest bs = true
  ofClosed : s.reqOpen = false → bs = [] ∨ s.busy = false ∧ wholeRequest bs = true

theorem State.Awaits.whole {s : State} {bs : List ReqBeat} (h : s.Awaits bs) (hbs : bs ≠ []) :
    wholeRequest bs = true := by
  cases ho : s.reqOpen with
  | true => exact h.ofOpen ho
  | false =>
    rcases h.ofClosed ho with hnil | ⟨-, hwhole⟩
    · exact absurd hnil hbs
    · exact hwhole

theorem State.Awaits.can_take {s : State} {bs : List ReqBeat} (h : s.Awaits bs) (hbs : bs ≠ []) :
    canTake s = true := by
  cases ho : s.reqOpen with
  | true => simp [canTake, ho]
  | false =>
    rcases h.ofClosed ho with hnil | ⟨hbusy, -⟩
    · exact absurd hnil hbs
    · simp [canTake, hbusy]

/-- With nothing left to take, a good block is idle or sending. -/
theorem State.Awaits.idle_or_sending {s : State} (hs : s.Inv) (h : s.Awaits []) : s.Idle ∨ s.Sending := by
  obtain ⟨-, -, hidle | htaking | hsending⟩ := (inv_iff s).1 hs
  · exact .inl hidle
  · exact absurd (h.ofOpen htaking.reqOpen) not_wholeRequest_nil
  · exact .inr hsending

/-- A request beat taken leaves the request open unless it was the last. -/
theorem takeBeat_reqOpen {b : ReqBeat} {s t : State} (hs : s.Inv) (hcan : canTake s = true)
    (h : takeBeat b s = .next t) : t.reqOpen = !b.last := by
  have finish : ∀ {u : State}, u.Taking → finishIfLast b.last u = .ok t → t.reqOpen = !b.last := by
    intro u hu hf
    cases hlast : b.last with
    | false =>
      rw [hlast] at hf
      cases hf
      exact hu.reqOpen
    | true =>
      rw [hlast] at hf
      obtain ⟨w, -, hw⟩ := bind_eq_ok hf
      cases hw
      rfl
  rcases takeBeat_inv h with ⟨hbusy, hmax, u, hu, hf⟩ | ⟨hbusy, u, hu, hf⟩
  · exact finish (payloadWork_taking (hs.taking hcan hbusy) hmax hu) hf
  · exact finish (headerWork_taking (hs.idle hbusy) hu) hf

theorem takeBeat_awaits {b : ReqBeat} {bs : List ReqBeat} {s t : State} (hs : s.Inv) (h : s.Awaits (b :: bs))
    (ht : takeBeat b s = .next t) : t.Awaits bs := by
  have hwhole := h.whole (by simp)
  have hopen := takeBeat_reqOpen hs (h.can_take (by simp)) ht
  cases bs with
  | nil =>
    rw [show b.last = true from hwhole] at hopen
    exact ⟨fun ho => by simp [hopen] at ho, fun _ => .inl rfl⟩
  | cons c r =>
    obtain ⟨hlast, hrest⟩ : b.last = false ∧ wholeRequest (c :: r) = true := by
      simpa [wholeRequest_cons_cons] using hwhole
    rw [hlast] at hopen
    exact ⟨fun _ => hrest, fun ho => by simp [hopen] at ho⟩

theorem giveBeat_awaits {bs : List ReqBeat} {s : State} (h : s.Awaits bs) : (giveBeat s).Awaits bs := by
  rcases giveBeat_cases s with ⟨-, hgive⟩ | ⟨b, r, -, hgive⟩
  · rwa [hgive]
  · rw [hgive]
    refine ⟨h.ofOpen, fun ho => (h.ofClosed ho).imp_right ?_⟩
    rintro ⟨hbusy, hwhole⟩
    exact ⟨by simp [hbusy], hwhole⟩

/-! ## On the way to an outcome -/

/-- A good block that, with the beats `bs` taken and everything due handed over, comes to the state `u`, but for the
timing. -/
structure State.HeadsFor (s : State) (bs : List ReqBeat) (u : State) : Prop where
  inv : s.Inv
  awaits : s.Awaits bs
  completes : ∃ v, completeWith bs s = .next v ∧ sameButTiming u v

/-- An idle block that is to be offered a request heads for what exec makes of it (R46). -/
theorem headsFor_of_exec {s u : State} {bs : List ReqBeat} {i : Instr} (hs : s.Inv) (hbusy : s.busy = false)
    (hdec : decodeRequest bs = .ok i) (hwf : i.wf s.cfg = true) (hexec : exec i s = .next u) : s.HeadsFor bs u where
  inv := hs
  awaits :=
    have hwhole := wholeRequest_of_decodeRequest hdec
    ⟨fun _ => hwhole, fun _ => .inr ⟨hbusy, hwhole⟩⟩
  completes := ⟨u, (beatByBeatIsTheOperation bs i s hs hbusy hdec hwf).trans hexec, sameButTiming_refl u⟩

/-- A block with nothing left to take that is not busy has arrived. -/
theorem State.HeadsFor.arrived {s u : State} (h : s.HeadsFor [] u) (hbusy : s.busy = false) :
    s.Idle ∧ sameButTiming u s := by
  have hidle := h.inv.idle hbusy
  obtain ⟨v, hv, hsame⟩ := h.completes
  rw [completeWith_nil, deliverAll_of_idle hidle] at hv
  cases hv
  exact ⟨hidle, hsame⟩

/-- The next beat of the request is taken, and nothing turns it away. -/
theorem State.HeadsFor.after_takeBeat {b : ReqBeat} {bs : List ReqBeat} {s u : State} (h : s.HeadsFor (b :: bs) u) :
    ∃ t, takeBeat b s = .next t ∧ t.HeadsFor bs u := by
  obtain ⟨v, hv, hsame⟩ := h.completes
  obtain ⟨t, ht⟩ := takeBeat_of_completeWith hv
  rw [completeWith_cons ht] at hv
  exact ⟨t, ht, takeBeat_keeps_inv h.inv (h.awaits.can_take (by simp)) ht, takeBeat_awaits h.inv h.awaits ht, v, hv,
    hsame⟩

/-- Moving due beats to the host and passing time change nothing of what a block heads for. -/
theorem State.HeadsFor.of_behind {s t u : State} {bs : List ReqBeat} {y : PortView} (h : s.HeadsFor bs u)
    (hinv : t.Inv) (hawaits : t.Awaits bs) (ht : t = s.bare.behind y) (htotal : s.portView.SameTotal y) :
    t.HeadsFor bs u := by
  obtain ⟨v, hv, hsame⟩ := h.completes
  rw [← bare_behind_portView s] at hv
  obtain ⟨w, hw, hvw⟩ := completeWith_behind htotal hv
  exact ⟨hinv, hawaits, w, ht ▸ hw, sameButTiming_trans hsame hvw⟩

theorem State.HeadsFor.after_retime {s u : State} {bs : List ReqBeat} (h : s.HeadsFor bs u) (p : Pins)
    (before : State) : (retime p before s).HeadsFor bs u :=
  let t := retime p before s
  h.of_behind (y := t.portView) ((retime_inv_iff p before s).2 h.inv) ⟨h.awaits.ofOpen, h.awaits.ofClosed⟩
    (bare_behind s t.portView).symm rfl

/-- The trailer is due only when nothing is left to take (R41, R46). -/
theorem State.HeadsFor.nil_of_trailer {s u : State} {bs : List ReqBeat} (h : s.HeadsFor bs u) {b : RspBeat}
    (hb : b ∈ s.rspOut) (hlast : b.last = true) : bs = [] := by
  obtain ⟨-, -, hidle | htaking | hsending⟩ := (inv_iff s).1 h.inv
  · simp [hidle.rspOut] at hb
  · simp [(htaking.rspOut b hb).1] at hlast
  · rcases h.awaits.ofClosed hsending.reqOpen with hnil | ⟨hbusy, -⟩
    · exact hnil
    · simp [hsending.busy] at hbusy

theorem State.HeadsFor.after_giveBeat {s u : State} {bs : List ReqBeat} (h : s.HeadsFor bs u) :
    (giveBeat s).HeadsFor bs u := by
  have hinv := giveBeat_keeps_inv h.inv
  have hawaits := giveBeat_awaits h.awaits
  rcases giveBeat_cases s with ⟨-, hgive⟩ | ⟨b, r, hout, hgive⟩
  · rwa [hgive]
  · cases hlast : b.last with
    | true =>
      obtain rfl := h.nil_of_trailer (b := b) (by simp [hout]) hlast
      obtain ⟨v, hv, hsame⟩ := h.completes
      rw [completeWith_nil, ← deliverAll_giveBeat] at hv
      exact ⟨hinv, hawaits, v, hv, hsame⟩
    | false =>
      refine h.of_behind (y := ⟨r, s.delivered ++ [b], s.edges, s.reqStall, s.rspStall⟩) hinv hawaits ?_ ?_
      · rw [hgive, bare_behind, hlast]
        simp
      · simp [PortView.SameTotal, State.portView, hout]

/-! ## Every edge keeps the heading -/

/-- The request beat that moves at an edge, if one does. -/
def movedAt (p : Pins) (s : State) : List ReqBeat := if requestMoves p s then [p.req] else []

theorem movedBeats_cons {p : Pins} {s t : State} (h : clockEdge p s = .next t) (ps : List Pins) :
    movedBeats (p :: ps) s = movedAt p s ++ movedBeats ps t := by
  simp only [movedBeats, h, movedAt]

/-- Whatever moves at an edge without reset, the block goes on towards the same state, with that much less to take. -/
theorem State.HeadsFor.after_edge {s u : State} {p : Pins} {bs : List ReqBeat} (hrst : p.rst = false)
    (h : s.HeadsFor (movedAt p s ++ bs) u) : ∃ t, clockEdge p s = .next t ∧ t.HeadsFor bs u := by
  have hside : ∃ w, requestSide p s = .next w ∧ w.HeadsFor bs u := by
    rw [movedAt] at h
    rw [requestSide]
    cases hmoves : requestMoves p s with
    | true =>
      rw [hmoves] at h
      exact h.after_takeBeat
    | false =>
      rw [hmoves] at h
      exact ⟨s, rfl, h⟩
  obtain ⟨w, hw, hheads⟩ := hside
  refine ⟨_, clockEdge_of_requestSide hrst hw, State.HeadsFor.after_retime ?_ p s⟩
  split
  · exact hheads.after_giveBeat
  · exact hheads

theorem State.HeadsFor.after_run {u t : State} : ∀ {pins : List Pins} {s : State} {left : List ReqBeat},
    (∀ p ∈ pins, p.rst = false) → runEdges pins s = .next t → s.HeadsFor (movedBeats pins s ++ left) u →
    t.HeadsFor left u
  | [], _, _, _, hrun, h => by
    cases hrun
    exact h
  | p :: ps, s, left, hrst, hrun, h => by
    obtain ⟨s', hedge, hrun'⟩ := andThen_eq_next hrun
    rw [movedBeats_cons hedge, List.append_assoc] at h
    obtain ⟨s'', hedge', h'⟩ := h.after_edge (hrst p (by simp))
    cases hedge.symm.trans hedge'
    exact h'.after_run (fun q hq => hrst q (by simp [hq])) hrun'

/-- After any edges without reset in which first beats of a request moved, the block heads for the operation's state. -/
theorem headsFor_of_run {pins : List Pins} {left : List ReqBeat} {i : Instr} {s t : State} (hs : s.Inv)
    (hbusy : s.busy = false) (hrst : ∀ p ∈ pins, p.rst = false) (hrun : runEdges pins s = .next t)
    (hdec : decodeRequest (movedBeats pins s ++ left) = .ok i) (hwf : i.wf s.cfg = true) :
    ∃ u, exec i s = .next u ∧ t.HeadsFor left u := by
  obtain ⟨u, -, hexec, -⟩ := everyOperationCompletes i s (hs.idle hbusy)
  exact ⟨u, hexec, (headsFor_of_exec hs hbusy hdec hwf hexec).after_run hrst hrun⟩

/-- Settles O53: the run keeps what the block heads for. -/
theorem anyInterleavingRefinesTheOperation : Obligations.AnyInterleavingRefinesTheOperation := by
  intro pins left i s t hs hbusy hrst hrun hdec hwf
  obtain ⟨v, hexec, hheads⟩ := headsFor_of_run hs hbusy hrst hrun hdec hwf
  obtain ⟨u, hu, hsame⟩ := hheads.completes
  exact ⟨u, v, hu, hexec, hsame⟩

end Sys2Proof.Machine
end

section
/-! Every transaction ends (R47, R205): an edge either moves a beat or counts a finite delay down, and what a block
heads for has only finitely many beats to move. First with the host that never pauses, then with every host that keeps its
duties. -/

namespace Sys2Proof.Machine

/-! ## What an edge brings forward -/

theorem clockEdge_quiet {p : Pins} {s : State} (hrst : p.rst = false) (hreq : requestMoves p s = false)
    (hrsp : responseMoves p s = false) : clockEdge p s = .next (retime p s s) := by
  simp [clockEdge_of_requestSide hrst (requestSide_of_not_moves hreq), hrsp]

theorem movedAt_of_moves {p : Pins} {s : State} (h : requestMoves p s = true) : movedAt p s = [p.req] := by
  rw [movedAt, if_pos h]

theorem movedAt_of_not_moves {p : Pins} {s : State} (h : requestMoves p s = false) : movedAt p s = [] := by
  simp [movedAt, h]

/-- An edge without reset moves a request beat, or makes the due response shorter, or only passes time. -/
theorem clockEdge_progress {p : Pins} {s t : State} (hrst : p.rst = false) (h : clockEdge p s = .next t) :
    movedAt p s = [p.req] ∨ (movedAt p s = [] ∧ t.rspOut.length < s.rspOut.length) ∨
      (movedAt p s = [] ∧ requestMoves p s = false ∧ responseMoves p s = false ∧ t = retime p s s) := by
  cases hreq : requestMoves p s with
  | true => exact .inl (movedAt_of_moves hreq)
  | false =>
    have hside := requestSide_of_not_moves hreq
    cases hrsp : responseMoves p s with
    | false =>
      cases (clockEdge_quiet hrst hreq hrsp).symm.trans h
      exact .inr (.inr ⟨movedAt_of_not_moves hreq, rfl, rfl, rfl⟩)
    | true =>
      obtain ⟨-, -, hsome⟩ := (responseMoves_iff p s).1 hrsp
      obtain ⟨b, hb⟩ := Option.isSome_iff_exists.1 hsome
      obtain ⟨r, hout⟩ := rspOffered_eq_head hside ((outputs_rsp_of_not_rst hrst s).symm.trans hb)
      cases (clockEdge_of_requestSide hrst hside).symm.trans h
      exact .inr (.inl ⟨movedAt_of_not_moves hreq, by simp [hrsp, giveBeat_of_cons hout, hout]⟩)

/-- A delay of `req_ready` is counted down at every edge. -/
theorem retime_reqStall_lt {p : Pins} {s : State} (h : s.reqStall ≠ 0) (t : State) :
    (retime p s t).reqStall < s.reqStall := by
  simp only [retime, if_neg h]
  omega

/-- A delay of `rsp_valid` is counted down at every edge once the whole request has moved (R205). -/
theorem retime_rspStall_lt {p : Pins} {s t : State} (hstall : s.rspStall ≠ 0) (hout : s.rspOut ≠ [])
    (hopen : t.reqOpen = false) : (retime p s t).rspStall < s.rspStall := by
  have hnone : rspOffered p s = none := by simp [rspOffered, hout, hstall]
  have hrsp : responseMoves p s = false := by simp [responseMoves, hnone]
  have hcount : (retime p s t).rspStall = s.rspStall - 1 := by simp [retime, hrsp, hnone, hopen, hout]
  omega

/-- The block keeps a request beat that it could take waiting for nothing but a beat that it offers (R47). -/
theorem rspOffered_of_waiting {p : Pins} {s : State} (hrst : p.rst = false) (hvalid : p.reqValid = true)
    (hcan : canTake s = true) (hstall : s.reqStall = 0) (hreq : requestMoves p s = false) :
    ∃ b, rspOffered p s = some b := by
  have hshows : showsDue s = true := by simp_all [requestMoves, reqReady]
  simp only [showsDue, Bool.and_eq_true, Bool.not_eq_true', beq_iff_eq] at hshows
  obtain ⟨hout, hzero⟩ := hshows
  cases hcons : s.rspOut with
  | nil => simp [hcons] at hout
  | cons b r => exact ⟨b, rspOffered_of_due hcons hzero p⟩

/-- With the whole request moved, a block that has not arrived has something to send and takes nothing. -/
theorem State.HeadsFor.sending {s u : State} (h : s.HeadsFor [] u) (hbusy : s.busy = true) : s.Sending := by
  rcases State.Awaits.idle_or_sending h.inv h.awaits with hidle | hsending
  · simp [hidle.not_busy] at hbusy
  · exact hsending

theorem State.Sending.rspOut_ne_nil {s : State} (h : s.Sending) : s.rspOut ≠ [] := by
  intro hnil
  have hends := h.ends
  simp [hnil, endsInTrailer] at hends

theorem State.Sending.not_canTake {s : State} (h : s.Sending) : canTake s = false := by
  simp [canTake, h.busy, h.reqOpen]

theorem requestMoves_of_not_canTake {s : State} (h : canTake s = false) (p : Pins) : requestMoves p s = false := by
  simp [requestMoves, reqReady, h]

/-! ## The host that never pauses -/

theorem dutifulPins_rst : ∀ bs : List ReqBeat, (dutifulPins bs).rst = false
  | [] => rfl
  | _ :: _ => rfl

theorem dutifulPins_rspReady : ∀ bs : List ReqBeat, (dutifulPins bs).rspReady = true
  | [] => rfl
  | _ :: _ => rfl

/-- The host offers the beats that are left and no others. -/
theorem movedAt_dutifulPins (bs : List ReqBeat) (s : State) :
    movedAt (dutifulPins bs) s ++ (if requestMoves (dutifulPins bs) s then bs.tail else bs) = bs := by
  cases hmoves : requestMoves (dutifulPins bs) s with
  | false => simp [movedAt_of_not_moves hmoves]
  | true =>
    rw [movedAt_of_moves hmoves]
    cases bs with
    | nil => simp [requestMoves, dutifulPins] at hmoves
    | cons b r => rfl

theorem responseMoves_dutifulPins {bs : List ReqBeat} {s : State} (h : responseMoves (dutifulPins bs) s = false) :
    rspOffered (dutifulPins bs) s = none := by
  simpa [responseMoves, dutifulPins_rst, dutifulPins_rspReady] using h

/-- The delay that keeps the next beat of the transaction from moving: a request beat while there are any left, else a
response beat. -/
def delay (bs : List ReqBeat) (s : State) : Nat := if bs = [] then s.rspStall else s.reqStall

/-- With the host that never pauses, an edge at which nothing moves counts the delay down. -/
theorem delay_lt_of_quiet {s u : State} {bs : List ReqBeat} (h : s.HeadsFor bs u)
    (hgo : bs ≠ [] ∨ s.busy = true) (hreq : requestMoves (dutifulPins bs) s = false)
    (hrsp : responseMoves (dutifulPins bs) s = false) : delay bs (retime (dutifulPins bs) s s) < delay bs s := by
  have hnone := responseMoves_dutifulPins hrsp
  cases bs with
  | nil =>
    have hsending := h.sending (hgo.resolve_left fun hne => hne rfl)
    refine retime_rspStall_lt (fun hzero => ?_) hsending.rspOut_ne_nil hsending.reqOpen
    obtain ⟨b, r, hout⟩ := List.exists_cons_of_ne_nil hsending.rspOut_ne_nil
    simp [rspOffered_of_due hout hzero] at hnone
  | cons b r =>
    refine retime_reqStall_lt (fun hzero => ?_) s
    obtain ⟨c, hc⟩ := rspOffered_of_waiting rfl rfl (h.awaits.can_take (by simp)) hzero hreq
    simp [hc] at hnone

/-- The host that never pauses brings the block to what it heads for. -/
theorem serve_arrives {s u : State} {bs : List ReqBeat} (h : s.HeadsFor bs u) :
    ∃ n v, serve n bs s = .next v ∧ v.Idle ∧ sameButTiming u v := by
  by_cases hdone : bs = [] ∧ s.busy = false
  · obtain ⟨rfl, hbusy⟩ := hdone
    exact ⟨0, s, rfl, h.arrived hbusy⟩
  · have hgo : bs ≠ [] ∨ s.busy = true := by
      rw [not_and_or, Bool.not_eq_false] at hdone
      exact hdone
    have hmoved := movedAt_dutifulPins bs s
    obtain ⟨t, hedge, ht⟩ := State.HeadsFor.after_edge (dutifulPins_rst bs) (hmoved.symm ▸ h)
    obtain ⟨n, v, hserve, harrived⟩ := serve_arrives ht
    exact ⟨n + 1, v, by rw [serve, hedge, andThen, hserve], harrived⟩
termination_by (bs.length, s.rspOut.length, delay bs s)
decreasing_by
  rcases clockEdge_progress (dutifulPins_rst bs) hedge with hone | ⟨hnone, hout⟩ | ⟨hnone, hreq, hrsp, rfl⟩
  · have hlen := congrArg List.length hmoved
    rw [hone, List.length_append, List.length_singleton] at hlen
    exact Prod.Lex.left _ _ (by omega)
  · rw [hnone, List.nil_append] at hmoved
    rw [hmoved]
    exact Prod.Lex.right _ (Prod.Lex.left _ _ hout)
  · rw [hnone, List.nil_append] at hmoved
    rw [hmoved]
    exact Prod.Lex.right _ (Prod.Lex.right _ (delay_lt_of_quiet h hgo hreq hrsp))

/-- Settles O55: after the run the block heads for the operation's state, and the prompt host brings it there. -/
theorem promptHostEndsAnyTransaction : Obligations.PromptHostEndsAnyTransaction := by
  intro pins left i s t hs hbusy hrst hrun hdec hwf
  obtain ⟨u, hexec, hheads⟩ := headsFor_of_run hs hbusy hrst hrun hdec hwf
  obtain ⟨n, v, hserve, hidle, hsame⟩ := serve_arrives hheads
  exact ⟨n, v, u, hserve, hidle, hexec, hsame⟩

end Sys2Proof.Machine
end

section
/-! Every transaction ends with every host that keeps its duties (R47): where it did not, the block would have to stand
still from some edge on, and that the duties and the finite delays do not allow. -/

namespace Sys2Proof.Machine

/-- What goes down wherever it is not 0 comes to 0 again and again. -/
theorem exists_zero_of_decreasing {f : Nat → Nat} (h : ∀ k, f k ≠ 0 → f (k + 1) < f k) (k : Nat) :
    ∃ j, k ≤ j ∧ f j = 0 := by
  by_cases hzero : f k = 0
  · exact ⟨k, Nat.le_refl k, hzero⟩
  · have hlt := h k hzero
    obtain ⟨j, hj, hfj⟩ := exists_zero_of_decreasing h (k + 1)
    exact ⟨j, by omega, hfj⟩
termination_by f k

section
variable {drive : Nat → Pins} {bs : List ReqBeat} {s u : State}

/-! ## A drive that keeps its duties -/

/-- After `n` edges of the drive the beats `rest` of the request are left, and the block, now in the state `t`, heads
for the state `u`. -/
structure Underway (drive : Nat → Pins) (bs : List ReqBeat) (s u : State) (n : Nat) (rest : List ReqBeat) (t : State) :
    Prop where
  run : runEdges (firstEdges drive n) s = .next t
  moved : bs = movedBefore drive s n ++ rest
  heads : t.HeadsFor rest u

theorem Underway.start (h : s.HeadsFor bs u) : Underway drive bs s u 0 bs s := ⟨rfl, rfl, h⟩

theorem Underway.length_lt {n : Nat} {rest : List ReqBeat} {t : State} (h : Underway drive bs s u n rest t)
    (hrest : rest ≠ []) : (movedBefore drive s n).length < bs.length := by
  have hlen := congrArg List.length h.moved
  have hpos := List.length_pos_of_ne_nil hrest
  rw [List.length_append] at hlen
  omega

theorem movedBefore_succ {n : Nat} {t : State} (h : runEdges (firstEdges drive n) s = .next t) :
    movedBefore drive s (n + 1) = movedBefore drive s n ++ movedAt (drive n) t := by
  rw [movedBefore, firstEdges_succ, movedBeats_snoc h]
  rfl

/-- Until the block has arrived, what moves at an edge is a beat of the request, and the block stays underway. -/
theorem Underway.next (hdrive : KeepsDuties drive bs s) {n : Nat} {rest : List ReqBeat} {t : State}
    (h : Underway drive bs s u n rest t) (hgo : rest ≠ [] ∨ t.busy = true) :
    ∃ rest' t', rest = movedAt (drive n) t ++ rest' ∧ clockEdge (drive n) t = .next t' ∧
      Underway drive bs s u (n + 1) rest' t' := by
  have hrest : ∃ rest', rest = movedAt (drive n) t ++ rest' := by
    cases hmoves : requestMoves (drive n) t with
    | false => exact ⟨rest, by rw [movedAt_of_not_moves hmoves, List.nil_append]⟩
    | true =>
      by_cases hnil : rest = []
      · subst hnil
        have hsending := h.heads.sending (hgo.resolve_left fun hne => hne rfl)
        simp [requestMoves_of_not_canTake hsending.not_canTake] at hmoves
      · obtain ⟨-, hvalid, -⟩ := (requestMoves_iff _ _).1 hmoves
        obtain ⟨rest', hbs⟩ := hdrive.inOrder n (h.length_lt hnil) hvalid
        refine ⟨rest', List.append_cancel_left (as := movedBefore drive s n) ?_⟩
        rw [← h.moved, movedAt_of_moves hmoves]
        exact hbs
  obtain ⟨rest', rfl⟩ := hrest
  obtain ⟨t', hedge, ht'⟩ := h.heads.after_edge (hdrive.noReset n)
  refine ⟨rest', t', rfl, hedge, ?_, ?_, ht'⟩
  · rw [firstEdges_succ, runEdges_snoc h.run, hedge]
  · rw [movedBefore_succ h.run, List.append_assoc, ← h.moved]

/-! ## Standing still for ever -/

/-- From edge `n` on nothing moves any more; `st k` is the state after `k` edges more. -/
structure Stuck (drive : Nat → Pins) (bs : List ReqBeat) (s u : State) (n : Nat) (rest : List ReqBeat)
    (st : Nat → State) : Prop where
  underway : ∀ k, Underway drive bs s u (n + k) rest (st k)
  noRequest : ∀ k, requestMoves (drive (n + k)) (st k) = false
  noResponse : ∀ k, responseMoves (drive (n + k)) (st k) = false

variable {n : Nat} {rest : List ReqBeat} {st : Nat → State}

theorem Stuck.edge (h : Stuck drive bs s u n rest st) (k : Nat) :
    clockEdge (drive (n + k)) (st k) = .next (st (k + 1)) := by
  have hrun := (h.underway (k + 1)).run
  rwa [← Nat.add_assoc, firstEdges_succ, runEdges_snoc (h.underway k).run] at hrun

/-- Only time passes. -/
theorem Stuck.succ (hdrive : KeepsDuties drive bs s) (h : Stuck drive bs s u n rest st) (k : Nat) :
    st (k + 1) = retime (drive (n + k)) (st k) (st k) := by
  have hquiet := clockEdge_quiet (hdrive.noReset (n + k)) (h.noRequest k) (h.noResponse k)
  exact Host.Outcome.next.inj ((h.edge k).symm.trans hquiet)

/-- A response beat offered stays offered (R44). -/
theorem Stuck.held (hdrive : KeepsDuties drive bs s) (h : Stuck drive bs s u n rest st) {k : Nat} {b : RspBeat}
    (hb : rspOffered (drive (n + k)) (st k) = some b) (j : Nat) :
    rspOffered (drive (n + (k + j))) (st (k + j)) = some b := by
  induction j with
  | zero => exact hb
  | succ j ih => exact rspOffered_held (hdrive.noReset _) (h.noResponse _) ih (h.edge _) _

/-- Nothing is offered to a host that takes what it is offered in finite time. -/
theorem Stuck.not_offered (hdrive : KeepsDuties drive bs s) (h : Stuck drive bs s u n rest st) (k : Nat)
    (b : RspBeat) : rspOffered (drive (n + k)) (st k) ≠ some b := by
  intro hb
  have hrsp : (outputs (drive (n + k)) (st k)).rsp.isSome = true := by
    rw [outputs_rsp_of_not_rst (hdrive.noReset _), hb]
    rfl
  obtain ⟨m, hm, hready⟩ := hdrive.takes (n + k) (st k) (h.underway k).run hrsp
  obtain ⟨j, rfl⟩ : ∃ j, m = n + (k + j) := ⟨m - (n + k), by omega⟩
  have hno := h.noResponse (k + j)
  simp [responseMoves, hdrive.noReset, hready, h.held hdrive hb j] at hno

/-- A beat of the request once offered stays offered. -/
theorem Stuck.valid (hdrive : KeepsDuties drive bs s) (h : Stuck drive bs s u n rest st) (hrest : rest ≠ []) {k : Nat}
    (hvalid : (drive (n + k)).reqValid = true) (j : Nat) : (drive (n + (k + j))).reqValid = true := by
  induction j with
  | zero => exact hvalid
  | succ j ih =>
    refine hdrive.holds (n + (k + j)) ((h.underway (k + j)).length_lt hrest) ih ?_
    rw [movedBefore_succ (h.underway (k + j)).run, movedAt_of_not_moves (h.noRequest (k + j)), List.append_nil]

/-- No beat of the request can be left: it is offered for ever, and `req_ready` comes (R47, R205). -/
theorem Stuck.rest_eq_nil (hdrive : KeepsDuties drive bs s) (h : Stuck drive bs s u n rest st) : rest = [] := by
  by_contra hrest
  obtain ⟨m, hm, hvalid⟩ := hdrive.offers n ((h.underway 0).length_lt hrest)
  obtain ⟨k, rfl⟩ : ∃ k, m = n + k := ⟨m - n, by omega⟩
  have hcount : ∀ j, (st j).reqStall ≠ 0 → (st (j + 1)).reqStall < (st j).reqStall := fun j hj => by
    rw [h.succ hdrive j]
    exact retime_reqStall_lt hj (st j)
  obtain ⟨j, hj, hzero⟩ := exists_zero_of_decreasing hcount k
  obtain ⟨i, rfl⟩ : ∃ i, j = k + i := ⟨j - k, by omega⟩
  obtain ⟨b, hb⟩ := rspOffered_of_waiting (hdrive.noReset _) (h.valid hdrive hrest hvalid i)
    ((h.underway (k + i)).heads.awaits.can_take hrest) hzero (h.noRequest (k + i))
  exact h.not_offered hdrive (k + i) b hb

theorem Stuck.busy_eq (hdrive : KeepsDuties drive bs s) (h : Stuck drive bs s u n rest st) (k : Nat) :
    (st k).busy = (st 0).busy := by
  induction k with
  | zero => rfl
  | succ k ih => rw [h.succ hdrive k, retime_busy, ih]

/-- Nor can any of the response: it is due, and `rsp_valid` comes (R205). -/
theorem Stuck.not_busy (hdrive : KeepsDuties drive bs s) (h : Stuck drive bs s u n rest st) :
    (st 0).busy = false := by
  by_contra hbusy
  obtain rfl := h.rest_eq_nil hdrive
  have hsending : ∀ k, (st k).Sending := fun k =>
    (h.underway k).heads.sending ((h.busy_eq hdrive k).trans (Bool.eq_true_of_not_eq_false hbusy))
  have hcount : ∀ k, (st k).rspStall ≠ 0 → (st (k + 1)).rspStall < (st k).rspStall := fun k hk => by
    rw [h.succ hdrive k]
    exact retime_rspStall_lt hk (hsending k).rspOut_ne_nil (hsending k).reqOpen
  obtain ⟨k, -, hzero⟩ := exists_zero_of_decreasing hcount 0
  obtain ⟨b, r, hout⟩ := List.exists_cons_of_ne_nil (hsending k).rspOut_ne_nil
  exact h.not_offered hdrive k b (rspOffered_of_due hout hzero _)

/-! ## Arriving -/

/-- Fewer beats are left to move: of the request, or as many of those and fewer response beats due. -/
def Fewer (rest' : List ReqBeat) (t' : State) (rest : List ReqBeat) (t : State) : Prop :=
  rest'.length < rest.length ∨ rest' = rest ∧ t'.rspOut.length < t.rspOut.length

/-- An edge that does not leave fewer beats to move only passes time. -/
theorem Underway.stays (hdrive : KeepsDuties drive bs s) {t : State} (h : Underway drive bs s u n rest t)
    (hgo : rest ≠ [] ∨ t.busy = true)
    (hfewest : ∀ {rest' t'}, Underway drive bs s u (n + 1) rest' t' → ¬ Fewer rest' t' rest t) :
    requestMoves (drive n) t = false ∧ responseMoves (drive n) t = false ∧
      Underway drive bs s u (n + 1) rest (retime (drive n) t t) := by
  obtain ⟨rest', t', hrest, hedge, h'⟩ := h.next hdrive hgo
  rcases clockEdge_progress (hdrive.noReset n) hedge with hone | ⟨hnone, hout⟩ | ⟨hnone, hreq, hrsp, rfl⟩
  · have hcount := congrArg List.length hrest
    rw [hone, List.length_append, List.length_singleton] at hcount
    exact absurd (.inl (by omega)) (hfewest h')
  · rw [hnone, List.nil_append] at hrest
    exact absurd (.inr ⟨hrest.symm, hout⟩) (hfewest h')
  · rw [hnone, List.nil_append] at hrest
    exact ⟨hreq, hrsp, hrest ▸ h'⟩

/-- Where no edge leaves fewer beats to move, nothing moves any more. -/
theorem Underway.exists_stuck (hdrive : KeepsDuties drive bs s) {t : State} (h : Underway drive bs s u n rest t)
    (hgo : ∀ {m rest' t'}, Underway drive bs s u m rest' t' → rest' ≠ [] ∨ t'.busy = true)
    (hfewest : ∀ {m rest' t'}, Underway drive bs s u m rest' t' → ¬ Fewer rest' t' rest t) :
    ∃ st, Stuck drive bs s u n rest st := by
  have hquiet : ∀ {m t'}, Underway drive bs s u m rest t' → t'.rspOut = t.rspOut →
      requestMoves (drive m) t' = false ∧ responseMoves (drive m) t' = false ∧
        Underway drive bs s u (m + 1) rest (retime (drive m) t' t') := fun h' hout =>
    h'.stays hdrive (hgo h') fun h'' hfewer => hfewest h'' (by rwa [Fewer, hout] at hfewer)
  have hstill : ∀ k, ∃ t', Underway drive bs s u (n + k) rest t' ∧ t'.rspOut = t.rspOut := by
    intro k
    induction k with
    | zero => exact ⟨t, h, rfl⟩
    | succ k ih =>
      obtain ⟨t', h', hout⟩ := ih
      obtain ⟨-, -, h''⟩ := hquiet h' hout
      exact ⟨_, h'', hout⟩
  choose st hunderway hout using hstill
  refine ⟨st, hunderway, fun k => ?_, fun k => ?_⟩
  · obtain ⟨hreq, -, -⟩ := hquiet (hunderway k) (hout k)
    exact hreq
  · obtain ⟨-, hrsp, -⟩ := hquiet (hunderway k) (hout k)
    exact hrsp

/-- A drive that keeps its duties brings the block to what it heads for: from an edge with the fewest beats left to
move, nothing would move any more. -/
theorem Underway.arrives (hdrive : KeepsDuties drive bs s) {n : Nat} {rest : List ReqBeat} {t : State}
    (h : Underway drive bs s u n rest t) : ∃ m t', Underway drive bs s u m [] t' ∧ t'.busy = false := by
  by_contra hnever
  have hgo : ∀ {m rest' t'}, Underway drive bs s u m rest' t' → rest' ≠ [] ∨ t'.busy = true := by
    intro m rest' t' h'
    by_contra hdone
    obtain ⟨rfl, hbusy⟩ : rest' = [] ∧ t'.busy = false := by simpa using hdone
    exact hnever ⟨m, t', h', hbusy⟩
  have hfewest : ∀ {m rest' t'}, Underway drive bs s u m rest' t' → ¬ Fewer rest' t' rest t :=
    fun h' hfewer => hnever (Underway.arrives hdrive h')
  obtain ⟨st, hstuck⟩ := h.exists_stuck hdrive hgo hfewest
  rcases hgo (hstuck.underway 0) with hrest | hbusy
  · exact hrest (hstuck.rest_eq_nil hdrive)
  · simp [hstuck.not_busy hdrive] at hbusy
termination_by (rest.length, t.rspOut.length)
decreasing_by
  rcases hfewer with hrest | ⟨rfl, hout⟩
  · exact Prod.Lex.left _ _ hrest
  · exact Prod.Lex.right _ hout

end

/-- Settles O54: the idle block heads for the operation's state with the whole request left, and arrives. -/
theorem everyTransactionEnds : Obligations.EveryTransactionEnds := by
  intro drive bs i s hs hbusy hdec hwf hdrive
  obtain ⟨u, -, hexec, -⟩ := everyOperationCompletes i s (hs.idle hbusy)
  have hstart : Underway drive bs s u 0 bs s := .start (headsFor_of_exec hs hbusy hdec hwf hexec)
  obtain ⟨n, t, harrived, hdone⟩ := hstart.arrives hdrive
  obtain ⟨hidle, hsame⟩ := harrived.heads.arrived hdone
  exact ⟨n, t, u, harrived.run, by simpa using harrived.moved.symm, hidle, hexec, hsame⟩

end Sys2Proof.Machine
end

section
/-! Requests and operations (R70 to R75): the round trip of encoder and decoder, and the signals that the decoder does
not look at. -/

namespace Sys2Proof.Machine

/-- Settles O34: the decoder undoes the encoder, and only whole requests decode. -/
theorem decodeEncodeRoundTrip : Obligations.DecodeEncodeRoundTrip := by
  intro i
  have hdec : decodeRequest (encodeRequest i) = .ok i := decodeRequest_encodeRequest i
  exact ⟨hdec, wholeRequest_of_decodeRequest hdec⟩

/-! ## Ignored signals -/

/-- The form of a request is settled by `req_last` of its beats. -/
theorem requestForm_eq_of_map_last : ∀ {ps qs : List ReqBeat}, ps.map ReqBeat.last = qs.map ReqBeat.last →
    requestForm ps = requestForm qs
  | [], [], _ => rfl
  | [b], [c], h => by
    have hlast : b.last = c.last := by simpa using h
    simp [requestForm, hlast]
  | b :: b' :: r, c :: c' :: r', h => by
    obtain ⟨hlast, htail⟩ := List.cons.inj h
    have ih := requestForm_eq_of_map_last (ps := b' :: r) (qs := c' :: r') htail
    simp [requestForm, hlast, ih]
  | [], _ :: _, h => by cases h
  | _ :: _, [], h => by cases h
  | [_], _ :: _ :: _, h => by simp at h
  | _ :: _ :: _, [_], h => by simp at h

/-- Of the payload beats the decoder reads `req_data` and `req_last` only (R71). -/
theorem decodeRequest_eq_of_payload (h : ReqBeat) {ps qs : List ReqBeat}
    (hdata : ps.map ReqBeat.data = qs.map ReqBeat.data) (hlast : ps.map ReqBeat.last = qs.map ReqBeat.last) :
    decodeRequest (h :: ps) = decodeRequest (h :: qs) := by
  have hform : requestForm (h :: ps) = requestForm (h :: qs) :=
    requestForm_eq_of_map_last (congrArg (h.last :: ·) hlast)
  simp only [decodeRequest, hform, hdata]

/-- Whether a request is whole does not depend on what its header asks for. -/
theorem wholeRequest_header (op op' : BitVec 3) (d d' : Byte) (l : Bool) (ps : List ReqBeat) :
    wholeRequest (⟨op, d, l⟩ :: ps) = wholeRequest (⟨op', d', l⟩ :: ps) := by
  cases ps <;> rfl

/-- Settles O36: the payload's bytes and the form settle the first clause; in the second every header is read by
`readRequest`, which drops what its operation has no use for (R74). -/
theorem ignoredSignalsMakeNoDifference : Obligations.IgnoredSignalsMakeNoDifference := by
  constructor
  · intro h ps qs heq
    have hdata : ps.map ReqBeat.data = qs.map ReqBeat.data := by
      simpa [Function.comp_def] using congrArg (List.map Prod.fst) heq
    have hlast : ps.map ReqBeat.last = qs.map ReqBeat.last := by
      simpa [Function.comp_def] using congrArg (List.map Prod.snd) heq
    exact decodeRequest_eq_of_payload h hdata hlast
  · intro d l stray hwhole
    have hread : ∀ (op : BitVec 3) (d' : Byte), decodeRequest (⟨op, d', l⟩ :: stray) =
        .ok (readRequest (OpSel.ofCode op) d' (stray.map ReqBeat.data)) := fun op d' =>
      decodeRequest_of_whole ((wholeRequest_header op 1#3 d' d l stray).trans hwhole)
    exact ⟨hread _ _, hread _ _, hread _ _, hread _ _, hread _ _, (hread 6#3 d).trans (hread 6#3 0x00#8).symm,
      (hread 7#3 d).trans (hread 7#3 0x00#8).symm⟩

/-- Settles O37: each request is whole, and its header and bytes are read by the tables. -/
theorem writtenOutRequestsDecode : Obligations.WrittenOutRequestsDecode :=
  ⟨decodeRequest_of_whole rfl, decodeRequest_of_whole rfl, decodeRequest_of_whole rfl, decodeRequest_of_whole rfl,
    decodeRequest_of_whole rfl⟩

end Sys2Proof.Machine
end

section
/-! The bytes the block assembles, bit by bit: the transmitted opcode (R61) and the motor parameter (R68). Both OR one
single bit into a byte. -/

namespace Sys2Proof.Machine

/-- The bits of a byte with the one bit `k`, or of 0 where `k` is outside the byte. -/
theorem getLsbD_one_shiftLeft (k : Nat) {i : Nat} (hi : i < 8) : (1#8 <<< k).getLsbD i = decide (i = k) := by
  rw [← BitVec.twoPow_eq, BitVec.getLsbD_twoPow, Bool.eq_iff_iff]
  simp only [Bool.and_eq_true, decide_eq_true_eq]
  omega

/-- `T` is the opcode with the toggle ORed into bit 3 (R61). -/
theorem transmitted_getLsbD (tog : Bool) (o : Byte) {i : Nat} (hi : i < 8) :
    (transmitted tog o).getLsbD i = if i = 3 then o.getLsbD 3 || tog else o.getLsbD i := by
  have hmask : toggleMask = 1#8 <<< 3 := rfl
  cases tog with
  | false => simp +contextual [transmitted_false]
  | true =>
    rw [transmitted_true, BitVec.getLsbD_or, hmask, getLsbD_one_shiftLeft 3 hi]
    by_cases h3 : i = 3 <;> simp [h3]

/-- Settles O2: TF.APPLY transmits the opcode with the toggle as it was before the flip. -/
theorem transmittedOpcodeBitByBit : Obligations.TransmittedOpcodeBitByBit := by
  intro o s i hi
  have happly : (tfApply o s).1 = transmitted s.toggle o := rfl
  exact ⟨rfl, happly ▸ transmitted_getLsbD s.toggle o hi⟩

/-- A parameter byte whose flag is the one bit `k` has that bit and the motor's (R68). -/
theorem motorParam_getLsbD (k : Nat) (m : Byte) {i : Nat} (hi : i < 8) :
    (motorParam (1#8 <<< k) m).getLsbD i = (decide (i = k) || decide (i = m.toNat)) := by
  rw [motorParam, BitVec.getLsbD_or, getLsbD_one_shiftLeft k hi, getLsbD_one_shiftLeft _ hi]

/-- The lookup of a motor operation with a valid index (R144, R145). -/
theorem catalog_motor_of_valid {c : Config} {m : Byte} (hm : m.toNat < c.nMotors) :
    catalog c .motorOn m = .ok ⟨opMotor, [motorParam flagOn m]⟩ ∧
      catalog c .motorOff m = .ok ⟨opMotor, [motorParam flagOff m]⟩ := by
  simp [catalog, Nat.not_le.2 hm]

/-- The lookup of a motor operation with an invalid index (R146). -/
theorem catalog_motor_of_invalid {c : Config} {m : Byte} (hm : c.nMotors ≤ m.toNat) :
    catalog c .motorOn m = .error .invalidMotorIndex ∧ catalog c .motorOff m = .error .invalidMotorIndex := by
  simp [catalog, hm]

/-- Settles O8: the flags of the two operations are the single bits 7 and 6. -/
theorem motorParameterBitByBit : Obligations.MotorParameterBitByBit := by
  intro c m _ hm
  obtain ⟨hon, hoff⟩ := catalog_motor_of_valid hm
  exact ⟨motorParam flagOn m, motorParam flagOff m, hon, hoff, rfl, rfl, fun i hi =>
    ⟨motorParam_getLsbD 7 m hi, motorParam_getLsbD 6 m hi⟩⟩

end Sys2Proof.Machine
end

section
/-! The catalog operations beside ENCODE (R82, R140): one piece of work under two operation codes leaves states that
differ in `op_lat` alone, and a lookup that fails leaves everything else as it was. -/

namespace Sys2Proof.Machine

/-- A transaction keeps of its operation nothing but the code in `op_lat`. -/
theorem transact_eq_but_opLat {body : State → Except Fault State} {flips : Bool} {s : State}
    (h : HasAnswer body s.cfg s.toggle flips) (hs : s.Idle) (op op' : OpSel) :
    ∃ t, transact op body s = .next t ∧ transact op' body s = .next { t with opLat := op'.code } := by
  obtain ⟨A, -, -, hbody⟩ := h
  have hrun : ∀ p : OpSel, transact p body s = .next (A.complete p s) := fun p => by
    rw [transact_ok (hbody (openTransaction p.code s) hs.pgPhase rfl rfl), deliverAll_queue_openTransaction A p hs]
  exact ⟨A.complete op s, hrun op, hrun op'⟩

/-- A catalog operation with a successful lookup is the ENCODE of the Command looked up (R82, R140). -/
theorem transact_runAction_of_command {s : State} (hs : s.Idle) {a : Action} {m : Byte} {cmd : Command}
    (hcat : catalog s.cfg a m = .ok cmd) (op : OpSel) :
    ∃ t, exec (.encode cmd.opcode cmd.params) s = .next t ∧
      transact op (runAction a m) s = .next { t with opLat := op.code } := by
  have hwork : transact op (runAction a m) s = transact op (runCommand cmd) s := by
    simp only [transact, runAction, openTransaction_cfg, hcat]
  rw [hwork]
  exact transact_eq_but_opLat (runCommand_hasAnswer cmd s.cfg s.toggle) hs .encode op

/-- The answer of an operation that raises an error: the trailer alone, and no register written (R165). -/
def Answer.ofError (e : ErrorKind) : Answer := ⟨false, id, id, [], e.code⟩

theorem raiseError_eq_queue (e : ErrorKind) (s : State) : raiseError e s = (Answer.ofError e).queue s := by
  simp [raiseError, sendTrailer, Answer.ofError, Answer.queue, Answer.response]

theorem complete_ofError (e : ErrorKind) (op : OpSel) (s : State) :
    (Answer.ofError e).complete op s = { s with
      opLat := op.code, delivered := s.delivered ++ [RspBeat.trailer e.code] } := by
  simp [Answer.ofError, Answer.complete, Answer.response]

/-- A catalog operation with a failed lookup answers the error's trailer and writes `op_lat` only (R147). -/
theorem transact_runAction_of_error {s : State} (hs : s.Idle) {a : Action} {m : Byte} {e : ErrorKind}
    (hcat : catalog s.cfg a m = .error e) (op : OpSel) :
    transact op (runAction a m) s = .next { s with
      opLat := op.code, delivered := s.delivered ++ [RspBeat.trailer e.code] } := by
  have hraise : runAction a m (openTransaction op.code s) =
      .ok ((Answer.ofError e).queue (openTransaction op.code s)) := by
    rw [runAction, openTransaction_cfg, hcat, ← raiseError_eq_queue]
  rw [transact_ok hraise, deliverAll_queue_openTransaction _ op hs, complete_ofError]

/-- Settles O19: the table of R82 is the catalog's lookup, and what the lookup rejects is raised. -/
theorem catalogOperationsExpandToEncode : Obligations.CatalogOperationsExpandToEncode := by
  intro s hs
  refine ⟨transact_runAction_of_command (a := .ping) hs rfl .ping,
    transact_runAction_of_command (a := .stopAll) hs rfl .stopAll,
    transact_runAction_of_command (a := .beep) hs rfl .beep, fun m hm => ?_, fun m hm => ?_⟩
  · obtain ⟨hon, hoff⟩ := catalog_motor_of_valid hm
    exact ⟨transact_runAction_of_command hs hon .motorOn, transact_runAction_of_command hs hoff .motorOff⟩
  · obtain ⟨hon, hoff⟩ := catalog_motor_of_invalid hm
    exact ⟨⟨_, transact_runAction_of_error hs hon .motorOn, rfl, rfl⟩,
      ⟨_, transact_runAction_of_error hs hoff .motorOff, rfl, rfl⟩⟩

end Sys2Proof.Machine
end

section
/-! The fields of a DecodedFrame, each read at its index (R66). -/

namespace Sys2Proof.Machine

theorem readByte_getD {f : List Byte} {i : Nat} (h : i < f.length) : readByte f i = .ok (f.getD i 0) := by
  rw [readByte_ok h, List.getD_eq_getElem _ _ h]

/-- The pairs read inside the frame, written out by index. -/
theorem readPairs_eq_range {f : List Byte} {i n : Nat} (h : i + 2 * n ≤ f.length) :
    readPairs f i n = .ok ((List.range n).map fun k => (f.getD (i + 2 * k) 0, f.getD (i + 1 + 2 * k) 0)) := by
  obtain ⟨ps, hread, hlen, hget⟩ := readPairs_ok f i n h
  rw [hread]
  congr 1
  refine List.ext_getElem? fun k => ?_
  by_cases hk : k < n
  · rw [hget k hk, Nat.add_right_comm]
    simp [hk]
  · rw [List.getElem?_eq_none (by omega), List.getElem?_eq_none (by simpa using hk)]

/-- Settles O22: every index that DECODE reads is inside a frame of well-formed length. -/
theorem decodedFieldsStandAtTheirIndices : Obligations.DecodedFieldsStandAtTheirIndices := by
  intro f n hlen
  have hpairs := readPairs_eq_range (f := f) (i := 5) (n := n) (by omega)
  rw [decodeFrame, checkLen_eq_some.2 hlen]
  simp (disch := omega) only [readByte_getD, hpairs, ok_bind, pure_eq_ok]

end Sys2Proof.Machine
end

section
/-! The primitives of 40_primitives.md, each one's answer and all it writes: CPL (R90), PG.PAIR (R91 to R93), the
accumulator (R94 to R96), TF.APPLY (R97), FD.CHECKLEN (R99), FD.CLASSIFY (R100) and the identities of R102. -/

namespace Sys2Proof.Machine

/-! ## CPL -/

theorem cpl_eq_not (b : Byte) : cpl b = ~~~b := BitVec.xor_allOnes

/-- A byte and its complement sum to 255 as integers (R90): the one fact that R102's first identity adds up. -/
theorem toNat_add_cpl_toNat (b : Byte) : b.toNat + (cpl b).toNat = 255 := by
  have hlt := b.isLt
  rw [cpl_toNat]
  omega

/-- No byte is its own complement: 255 is odd. -/
theorem cpl_ne_self (b : Byte) : cpl b ≠ b := by
  intro heq
  have hsum := toNat_add_cpl_toNat b
  rw [heq] at hsum
  omega

/-- Settles O1: CPL is the bitwise NOT, which gives the laws of bits; the others are those of `255 - b`. -/
theorem complementLaws : Obligations.ComplementLaws := by
  refine ⟨fun b => ⟨rfl, cpl_toNat b, cpl_cpl b, cpl_ne_self b, toNat_add_cpl_toNat b, ?_, ?_⟩,
    rfl, rfl, rfl, rfl, rfl⟩
  · exact cpl_eq_not b ▸ BitVec.and_not_self b
  · exact cpl_eq_not b ▸ BitVec.or_not_self b

/-! ## TF.APPLY -/

/-- An opcode that has bit 3 already is transmitted as it is, whatever the toggle (R97). -/
theorem transmitted_of_bit_three {o : Byte} (h : o.getLsbD 3 = true) (tog : Bool) : transmitted tog o = o := by
  refine BitVec.eq_of_getLsbD_eq fun i hi => ?_
  rw [transmitted_getLsbD tog o hi]
  split
  case isTrue h3 => rw [h3, h, Bool.true_or]
  case isFalse => rfl

/-- Settles O3: the result and the state are TF.APPLY's definition; only an opcode with bit 3 at 1 needs its bits. -/
theorem toggleApplyReadsThenFlips : Obligations.ToggleApplyReadsThenFlips := by
  intro o s
  exact ⟨rfl, fun h => transmitted_of_bit_three h s.toggle, rfl⟩

/-! ## PG.PAIR -/

/-- PG.PAIR out of its precondition: PG.LOAD stops (R91, log 6). -/
theorem pgPair_pending {s : State} (h : s.pgPhase = true) (b : Byte) (k : ValueKind) :
    pgPair b k s = .error .pairPending := by
  rw [pgPair, pgLoad, if_pos h, error_bind]

/-- Settles O4, one clause for each value of `pg_phase`. -/
theorem pairGeneratorEmitsByteThenComplement : Obligations.PairGeneratorEmitsByteThenComplement :=
  fun b k _ => ⟨fun h => pgPair_ok h b k, fun h => pgPair_pending h b k⟩

/-! ## The accumulator -/

/-- CA.ADD of the bytes of a list, one after the other, writes `acc` alone (R95). -/
theorem foldl_caAdd (bs : List Byte) (s : State) :
    bs.foldl (fun u b => caAdd b u) s = { s with acc := bs.foldl (· + ·) s.acc } := by
  induction bs generalizing s with
  | nil => rfl
  | cons b bs ih => rw [List.foldl_cons, ih]; rfl

/-- The checksum does not depend on the order of the parameters: their integer sum does not. -/
theorem checksumOf_perm {ps qs : List Byte} (h : ps.Perm qs) (t : Byte) : checksumOf t ps = checksumOf t qs := by
  rw [checksumOf, checksumOf, (h.map BitVec.toNat).sum_eq]

/-- From a clear accumulator the checksum is the sum of the list alone. -/
theorem checksumOf_zero (ps : List Byte) :
    checksumOf 0x00#8 ps = BitVec.ofNat 8 ((ps.map BitVec.toNat).sum % 256) := by
  simp [checksumOf, sumMod]

/-- Settles O5: the additions leave the checksum of R65 in `acc`, and that is the same for any rearrangement. -/
theorem accumulatorSumsModulo256 : Obligations.AccumulatorSumsModulo256 := by
  intro bs bs' s hperm
  have hacc : bs.foldl (fun u b => caAdd b u) (caClear s) =
      { s with acc := BitVec.ofNat 8 ((bs'.map BitVec.toNat).sum % 256) } := by
    rw [foldl_caAdd, caClear_acc, foldl_add_eq_checksumOf, checksumOf_perm hperm, checksumOf_zero]
    rfl
  exact ⟨hacc, congrArg caRead hacc⟩

/-! ## FD.CHECKLEN and FD.CLASSIFY -/

/-- Settles O6: from 7 on, `L - 7` is even exactly when `L` is odd. -/
theorem lengthTestAcceptsOddFromSeven : Obligations.LengthTestAcceptsOddFromSeven := by
  intro len
  constructor
  · rw [checkLen_eq_none]
    omega
  · intro n
    rw [checkLen_eq_some]
    omega

/-- From index 5 on FD.CLASSIFY looks for the checksum pair at the end and then at the parity of the index (R100). -/
theorem classify_of_five_le {i : Nat} (h : 5 ≤ i) (len : Nat) :
    classify i len =
      if i = len - 2 then .checksum else if i = len - 1 then .checksumC else if i % 2 = 1 then .param else .paramC := by
  rw [classify, if_neg (by omega), if_neg (by omega), if_neg (by omega)]

/-- Settles O7: the checksum pair starts at an odd index, `5 + 2n`, and every parameter pair ends below it. -/
theorem classifyFollowsFieldTable : Obligations.ClassifyFollowsFieldTable := by
  intro n i _
  refine ⟨fun h => if_pos h, ?opcode, ?opcodeC, ?param, ?paramC, ?checksum, ?checksumC⟩
  case opcode => rintro rfl; rfl
  case opcodeC => rintro rfl; rfl
  case param =>
    intro hlow hhigh hodd
    rw [classify_of_five_le hlow, if_neg (by omega), if_neg (by omega), if_pos hodd]
  case paramC =>
    intro hlow hhigh heven
    rw [classify_of_five_le (by omega), if_neg (by omega), if_neg (by omega), if_neg (by omega)]
  case checksum =>
    intro h
    rw [classify_of_five_le (by omega), if_pos (by omega)]
  case checksumC =>
    intro h
    rw [classify_of_five_le (by omega), if_neg (by omega), if_pos (by omega)]

/-! ## The identities of the test vectors (R102) -/

/-- `m` pairs laid end to end, each a byte and its complement, sum to `255 * m`. -/
theorem sum_of_complement_pairs {m : Nat} {l : List Byte} (hlen : l.length = 2 * m)
    (hpairs : ∀ k, k < m → l[2 * k + 1]? = (l[2 * k]?).map cpl) : (l.map BitVec.toNat).sum = 255 * m := by
  induction m generalizing l with
  | zero => rw [List.eq_nil_of_length_eq_zero hlen]; rfl
  | succ m ih =>
    obtain _ | ⟨a, _ | ⟨b, l⟩⟩ := l
    · simp only [List.length_nil] at hlen
      omega
    · simp only [List.length_cons, List.length_nil] at hlen
      omega
    · have hb : b = cpl a := Option.some.inj (hpairs 0 m.succ_pos)
      have hrest := ih (l := l) (by simp only [List.length_cons] at hlen; omega) fun k hk => hpairs (k + 1) (by omega)
      have hpair := toNat_add_cpl_toNat a
      simp only [List.map_cons, List.sum_cons, hrest, hb]
      omega

/-- In a frame without a broken pair every odd index from 3 on starts a complement pair. -/
theorem complement_of_not_brokenPair {f : List Byte} (h : ¬ brokenPair f) {i : Nat} (h3 : 3 ≤ i) (hodd : i % 2 = 1)
    (hi : i + 1 < f.length) : f[i + 1]? = (f[i]?).map cpl := by
  by_contra hne
  exact h ⟨i, h3, hodd, hi, hne⟩

/-- Adding to the transmitted opcode adds the same, modulo 256, to the checksum. -/
theorem checksumOf_add (t d : Byte) (ps : List Byte) : checksumOf (t + d) ps = checksumOf t ps + d := by
  apply BitVec.eq_of_toNat_eq
  simp only [checksumOf, sumMod, BitVec.toNat_ofNat, BitVec.toNat_add]
  omega

/-- Where bit 3 of the opcode is 0, the toggle bit is added: nothing is carried. -/
theorem transmitted_true_eq_add {o : Byte} (h : o &&& toggleMask = 0x00#8) : transmitted true o = o + toggleMask :=
  (BitVec.add_eq_or_of_and_eq_zero o toggleMask h).symm

/-- Settles O12: the bytes from index 3 on are `n + 2` complement pairs; setting the toggle bit is an addition of 8. -/
theorem byteSumAndToggleIdentities : Obligations.ByteSumAndToggleIdentities := by
  constructor
  · intro f n hlen hgood
    refine sum_of_complement_pairs (by rw [List.length_drop]; omega) fun k hk => ?_
    rw [List.getElem?_drop, List.getElem?_drop, ← Nat.add_assoc]
    exact complement_of_not_brokenPair hgood (by omega) (by omega) (by omega)
  · intro o ps hbit
    rw [transmitted_true_eq_add hbit, transmitted_false]
    exact ⟨BitVec.toNat_add_of_and_eq_zero hbit, checksumOf_add o toggleMask ps⟩

end Sys2Proof.Machine
end

section
/-! The frame of R62 byte by byte: after the preamble stand the values (the transmitted opcode, the parameters, the
checksum), each followed by its complement. -/

namespace Sys2Proof.Machine

/-! ## Bytes with their complements -/

/-- Bytes laid end to end, each followed by its complement (R33, R64). -/
def withComplements (bs : List Byte) : List Byte := flattenPairs (bs.map fun b => (b, cpl b))

theorem withComplements_cons (b : Byte) (bs : List Byte) :
    withComplements (b :: bs) = b :: cpl b :: withComplements bs := rfl

theorem withComplements_append : ∀ bs cs : List Byte,
    withComplements (bs ++ cs) = withComplements bs ++ withComplements cs
  | [], _ => rfl
  | b :: bs, cs => by
    simp only [List.cons_append, withComplements_cons, withComplements_append bs cs]

@[simp] theorem length_withComplements (bs : List Byte) : (withComplements bs).length = 2 * bs.length := by
  induction bs with
  | nil => rfl
  | cons b bs ih => simp only [withComplements_cons, List.length_cons, ih]; omega

theorem getElem?_withComplements_even (bs : List Byte) (k : Nat) : (withComplements bs)[2 * k]? = bs[k]? := by
  induction bs generalizing k with
  | nil => rfl
  | cons b bs ih =>
    cases k with
    | zero => rfl
    | succ k => exact ih k

theorem getElem?_withComplements_odd (bs : List Byte) (k : Nat) :
    (withComplements bs)[2 * k + 1]? = (bs[k]?).map cpl := by
  induction bs generalizing k with
  | nil => rfl
  | cons b bs ih =>
    cases k with
    | zero => rfl
    | succ k => exact ih k

/-! ## The frame by index -/

/-- The bytes at the value positions 3, 5, …, `L - 2` of a frame (R62). -/
def frameValues (t : Byte) (ps : List Byte) : List Byte := t :: (ps ++ [checksumOf t ps])

theorem frameLayout_eq (t : Byte) (ps : List Byte) :
    frameLayout t ps = preamble0 :: preamble1 :: preamble2 :: withComplements (frameValues t ps) := by
  rw [frameValues, withComplements_cons, withComplements_append]
  rfl

theorem length_frameLayout (t : Byte) (ps : List Byte) : (frameLayout t ps).length = 7 + 2 * ps.length := by
  simp only [frameLayout_eq, frameValues, List.length_cons, length_withComplements, List.length_append,
    List.length_nil]
  omega

theorem take_three_frameLayout (t : Byte) (ps : List Byte) :
    (frameLayout t ps).take 3 = [0x55#8, 0xFF#8, 0x00#8] := rfl

theorem getElem?_frameLayout_value (t : Byte) (ps : List Byte) (k : Nat) :
    (frameLayout t ps)[3 + 2 * k]? = (frameValues t ps)[k]? := by
  rw [frameLayout_eq, Nat.add_comm]
  exact getElem?_withComplements_even _ k

theorem getElem?_frameLayout_complement (t : Byte) (ps : List Byte) (k : Nat) :
    (frameLayout t ps)[4 + 2 * k]? = ((frameValues t ps)[k]?).map cpl := by
  rw [frameLayout_eq, Nat.add_comm]
  exact getElem?_withComplements_odd _ k

theorem getElem?_frameValues_param (t : Byte) {ps : List Byte} {k : Nat} (hk : k < ps.length) :
    (frameValues t ps)[k + 1]? = ps[k]? := by
  rw [frameValues, List.getElem?_cons_succ, List.getElem?_append_left hk]

theorem getElem?_frameValues_checksum (t : Byte) (ps : List Byte) :
    (frameValues t ps)[ps.length + 1]? = some (checksumOf t ps) := by
  simp [frameValues]

/-- The parameters stand at `5 + 2k` (R62). -/
theorem getElem?_frameLayout_param (t : Byte) {ps : List Byte} {k : Nat} (hk : k < ps.length) :
    (frameLayout t ps)[5 + 2 * k]? = ps[k]? := by
  rw [← getElem?_frameValues_param t hk, ← getElem?_frameLayout_value]
  congr 1
  omega

/-- The checksum stands at `L - 2` (R65). -/
theorem getElem?_frameLayout_checksum (t : Byte) (ps : List Byte) :
    (frameLayout t ps)[(frameLayout t ps).length - 2]? = some (checksumOf t ps) := by
  have hindex : (frameLayout t ps).length - 2 = 3 + 2 * (ps.length + 1) := by rw [length_frameLayout]; omega
  rw [hindex, getElem?_frameLayout_value, getElem?_frameValues_checksum]

theorem getD_frameLayout_checksum (t : Byte) (ps : List Byte) :
    (frameLayout t ps).getD ((frameLayout t ps).length - 2) 0 = checksumOf t ps := by
  rw [List.getD_eq_getElem?_getD, getElem?_frameLayout_checksum, Option.getD_some]

/-- Every byte at a value position is followed by its complement (R64). -/
theorem complement_frameLayout (t : Byte) (ps : List Byte) {i : Nat} (h3 : 3 ≤ i) (hodd : i % 2 = 1) :
    (frameLayout t ps)[i + 1]? = ((frameLayout t ps)[i]?).map cpl := by
  obtain ⟨k, rfl⟩ : ∃ k, i = 3 + 2 * k := ⟨(i - 3) / 2, by omega⟩
  rw [getElem?_frameLayout_value, ← getElem?_frameLayout_complement, Nat.add_right_comm]

/-! ## The frame tagged -/

theorem tagFrom_pair {len i : Nat} {b : Byte} {k : ValueKind} (hb : classify i len = k.tag)
    (hc : classify (i + 1) len = k.complementTag) (f : List Byte) :
    tagFrom len i (b :: cpl b :: f) = pairBeats k b ++ tagFrom len (i + 2) f := by
  rw [tagFrom, tagFrom, hb, hc]
  rfl

/-- The rest of a frame from its first parameter on: parameter pairs as long as two more bytes are to come, and then
the checksum pair (R78). -/
theorem tagFrom_params (c : Byte) (ps : List Byte) {len i : Nat} (hi : 5 ≤ i) (hodd : i % 2 = 1)
    (hlen : len = i + 2 * ps.length + 2) :
    tagFrom len i (withComplements (ps ++ [c])) = ps.flatMap (pairBeats .param) ++ pairBeats .checksum c := by
  induction ps generalizing i with
  | nil =>
    rw [List.length_nil] at hlen
    refine tagFrom_pair (k := .checksum) ?_ ?_ []
    · rw [classify_of_five_le hi, if_pos (by omega)]; rfl
    · rw [classify_of_five_le (by omega), if_neg (by omega), if_pos (by omega)]; rfl
  | cons p ps ih =>
    rw [List.length_cons] at hlen
    rw [List.cons_append, withComplements_cons, tagFrom_pair (k := .param), ih (by omega) (by omega) (by omega),
      List.flatMap_cons, List.append_assoc]
    · rw [classify_of_five_le hi, if_neg (by omega), if_neg (by omega), if_pos hodd]; rfl
    · rw [classify_of_five_le (by omega), if_neg (by omega), if_neg (by omega), if_neg (by omega)]; rfl

/-- The tagged beats of a frame are those the primitives of R111 send. -/
theorem taggedFrame_frameLayout (t : Byte) (ps : List Byte) :
    taggedFrame (frameLayout t ps) =
      preambleBeats ++ pairBeats .opcode t ++ ps.flatMap (pairBeats .param) ++
        pairBeats .checksum (checksumOf t ps) := by
  have hparams := tagFrom_params (checksumOf t ps) ps (i := 5) (le_refl 5) rfl
    (show 7 + 2 * ps.length = 5 + 2 * ps.length + 2 by omega)
  rw [taggedFrame, length_frameLayout, frameLayout_eq, frameValues, withComplements_cons, List.append_assoc, ← hparams]
  rfl

/-! ## Two frames with the same parameters -/

theorem cpl_inj {a b : Byte} : cpl a = cpl b ↔ a = b :=
  ⟨fun h => by rw [← cpl_cpl a, h, cpl_cpl], congrArg cpl⟩

theorem cpl_xor_cpl (a b : Byte) : cpl a ^^^ cpl b = a ^^^ b := by
  rw [cpl, cpl, BitVec.xor_comm b, BitVec.xor_assoc, xor_cancel_left]

/-- Frames with the same parameters but different opcodes and checksums differ in the first and the last value alone. -/
theorem frameValues_ne_iff {t u : Byte} {ps : List Byte} (ht : t ≠ u) (hc : checksumOf t ps ≠ checksumOf u ps)
    {k : Nat} (hk : k < ps.length + 2) :
    (frameValues t ps)[k]? ≠ (frameValues u ps)[k]? ↔ k = 0 ∨ k = ps.length + 1 := by
  rcases k with _ | k
  · simp [frameValues, ht]
  · rcases Nat.lt_or_ge k ps.length with hlt | hge
    · have hno : ¬ (k + 1 = 0 ∨ k + 1 = ps.length + 1) := by omega
      rw [getElem?_frameValues_param t hlt, getElem?_frameValues_param u hlt]
      exact iff_of_false (fun h => h rfl) hno
    · obtain rfl : k = ps.length := by omega
      simp [getElem?_frameValues_checksum, hc]

/-- An index is inside the preamble, at a value position, or right after one. -/
theorem preamble_or_value_or_complement (i : Nat) : i < 3 ∨ ∃ k, i = 3 + 2 * k ∨ i = 4 + 2 * k := by
  by_cases h : i < 3
  · exact .inl h
  · exact .inr ⟨(i - 3) / 2, by omega⟩

/-- So the frames differ in the opcode pair and the checksum pair alone. -/
theorem frameLayout_ne_iff {t u : Byte} {ps : List Byte} (ht : t ≠ u) (hc : checksumOf t ps ≠ checksumOf u ps)
    {i : Nat} (hi : i < 7 + 2 * ps.length) :
    (frameLayout t ps)[i]? ≠ (frameLayout u ps)[i]? ↔
      i = 3 ∨ i = 4 ∨ i + 2 = 7 + 2 * ps.length ∨ i + 1 = 7 + 2 * ps.length := by
  rcases preamble_or_value_or_complement i with h3 | ⟨k, rfl | rfl⟩
  · have hsame : (frameLayout t ps)[i]? = (frameLayout u ps)[i]? := by
      rcases i with _ | _ | _ | i
      · rfl
      · rfl
      · rfl
      · omega
    exact iff_of_false (fun h => h hsame) (by omega)
  · rw [getElem?_frameLayout_value, getElem?_frameLayout_value, frameValues_ne_iff ht hc (by omega)]
    omega
  · rw [getElem?_frameLayout_complement, getElem?_frameLayout_complement,
      (Option.map_injective fun _ _ => cpl_inj.1).ne_iff, frameValues_ne_iff ht hc (by omega)]
    omega

end Sys2Proof.Machine
end

section
/-! ENCODE (R110 to R116): on an idle block the primitives give the frame of the closed formula and flip the toggle;
what holds of its frames, alone (R116) and two in a row (R114), is then read off the frame's bytes. -/

namespace Sys2Proof.Machine

/-! ## The next state of ENCODE -/

/-- The answer of ENCODE, by the closed formula of R110. -/
def Answer.ofEncode (tog : Bool) (o : Byte) (ps : List Byte) : Answer where
  flips := true
  acc := fun _ => checksumOf (transmitted tog o) ps
  hold := fun _ => checksumOf (transmitted tog o) ps
  data := taggedFrame (encodedFrame tog o ps)
  status := statusOk

/-- The primitives of R111 give the answer of the formula. -/
theorem runCommand_eq_queue {s : State} (h : s.pgPhase = false) (o : Byte) (ps : List Byte) :
    runCommand ⟨o, ps⟩ s = .ok ((Answer.ofEncode s.toggle o ps).queue s) := by
  rw [runCommand_ok h]
  simp [Answer.queue, Answer.response, Answer.ofEncode, encodedFrame, taggedFrame_frameLayout, foldl_add_eq_checksumOf]

/-- ENCODE on an idle block gives that answer and hands its response over. -/
theorem exec_encode {s : State} (hs : s.Idle) (o : Byte) (ps : List Byte) :
    exec (.encode o ps) s = .next ((Answer.ofEncode s.toggle o ps).complete .encode s) := by
  have hrun := runCommand_eq_queue (s := openTransaction OpSel.encode.code s) hs.pgPhase o ps
  show transact .encode (runCommand ⟨o, ps⟩) s = _
  rw [transact_ok hrun, deliverAll_queue_openTransaction _ .encode hs, openTransaction_toggle]

/-- Settles O9: the answer of ENCODE, written out as the update of the state. -/
theorem encodePrimitivesGiveTheFormula : Obligations.EncodePrimitivesGiveTheFormula := by
  intro o ps s hs
  rw [exec_encode hs, Answer.complete, show (Answer.ofEncode s.toggle o ps).flips = true from rfl, Bool.xor_true]
  rfl

/-! ## The toggle bit in the transmitted opcode -/

theorem and_toggleMask (b : Byte) : b &&& toggleMask = if b.getLsbD 3 then toggleMask else 0#8 := BitVec.and_twoPow b 3

theorem and_toggleMask_eq_self_iff (b : Byte) : b &&& toggleMask = toggleMask ↔ b.getLsbD 3 = true := by
  rw [and_toggleMask]
  cases b.getLsbD 3 <;> decide

theorem and_toggleMask_eq_zero_iff (b : Byte) : b &&& toggleMask = 0x00#8 ↔ b.getLsbD 3 = false := by
  rw [and_toggleMask]
  cases b.getLsbD 3 <;> decide

theorem transmitted_and_not_toggleMask (tog : Bool) (o : Byte) : transmitted tog o &&& 0xF7#8 = o &&& 0xF7#8 := by
  cases tog with
  | false => rfl
  | true =>
    have hmask : toggleMask &&& 0xF7#8 = 0#8 := rfl
    rw [transmitted_true, BitVec.and_or_distrib_right, hmask, BitVec.or_zero]

theorem transmitted_and_toggleMask_iff (tog : Bool) (o : Byte) :
    transmitted tog o &&& toggleMask = toggleMask ↔ tog = true ∨ o &&& toggleMask = toggleMask := by
  rw [and_toggleMask_eq_self_iff, and_toggleMask_eq_self_iff, transmitted_getLsbD tog o (by decide), if_pos rfl,
    Bool.or_eq_true, or_comm]

/-! ## One frame (R116) -/

/-- Settles O10: the laws are those of the frame's layout, and of the transmitted opcode. -/
theorem everyEncodedFrameKeepsTheLaws : Obligations.EveryEncodedFrameKeepsTheLaws := by
  intro o ps s hs
  exact ⟨_, encodedFrame s.toggle o ps, transmitted s.toggle o, exec_encode hs o ps, rfl, length_frameLayout _ ps,
    take_three_frameLayout _ ps, fun i h3 hodd _ => complement_frameLayout _ ps h3 hodd, rfl,
    getElem?_frameLayout_checksum _ ps, fun k hk => getElem?_frameLayout_param _ hk,
    transmitted_and_not_toggleMask s.toggle o, transmitted_and_toggleMask_iff s.toggle o⟩

/-! ## Two frames in a row (R114) -/

/-- What the host sees of one ENCODE, and what the next operation finds. -/
theorem exec_encode_delivers {s : State} (hs : s.Idle) (o : Byte) (ps : List Byte) :
    ∃ t, exec (.encode o ps) s = .next t ∧ t.Idle ∧ t.toggle = !s.toggle ∧
      t.delivered = s.delivered ++ frameResponse (encodedFrame s.toggle o ps) :=
  ⟨_, encodePrimitivesGiveTheFormula o ps s hs, hs, rfl, rfl⟩

/-- Two ENCODEs in a row: the frames of both toggle values, and the toggle back where it was. -/
theorem execAll_encode_encode {s : State} (hs : s.Idle) (o : Byte) (ps : List Byte) :
    ∃ t, execAll [.encode o ps, .encode o ps] s = .next t ∧ t.toggle = s.toggle ∧
      t.delivered = s.delivered ++ frameResponse (encodedFrame s.toggle o ps) ++
        frameResponse (encodedFrame (!s.toggle) o ps) := by
  obtain ⟨t, hfirst, ht, htoggle, hdelivered⟩ := exec_encode_delivers hs o ps
  obtain ⟨u, hsecond, -, hutoggle, hudelivered⟩ := exec_encode_delivers ht o ps
  refine ⟨u, (execAll_cons hfirst _).trans (execAll_cons hsecond []), ?_, ?_⟩
  · rw [hutoggle, htoggle, Bool.not_not]
  · rw [hudelivered, hdelivered, htoggle]

/-- Where bit 3 of the opcode is 0, the toggle shows in that bit of the transmitted opcode and nowhere else (R61). -/
theorem transmitted_xor_transmitted_not {o : Byte} (h : o.getLsbD 3 = false) (tog : Bool) :
    transmitted tog o ^^^ transmitted (!tog) o = toggleMask := by
  refine BitVec.eq_of_getLsbD_eq fun i hi => ?_
  have hmask : toggleMask.getLsbD i = decide (i = 3) := getLsbD_one_shiftLeft 3 hi
  rw [BitVec.getLsbD_xor, transmitted_getLsbD tog o hi, transmitted_getLsbD (!tog) o hi, hmask]
  by_cases h3 : i = 3
  · rw [if_pos h3, if_pos h3, h, decide_eq_true h3]
    cases tog <;> rfl
  · simp [h3]

/-- Where bit 3 of the opcode is 0, the checksums of the two toggle values are 8 apart (R102). -/
theorem checksumOf_transmitted_sub {o : Byte} (h : o.getLsbD 3 = false) (tog : Bool) (ps : List Byte) :
    checksumOf (transmitted tog o) ps - checksumOf (transmitted (!tog) o) ps = toggleMask ∨
      checksumOf (transmitted (!tog) o) ps - checksumOf (transmitted tog o) ps = toggleMask := by
  have hadd : checksumOf (transmitted true o) ps - checksumOf (transmitted false o) ps = toggleMask := by
    rw [transmitted_true_eq_add ((and_toggleMask_eq_zero_iff o).2 h), transmitted_false, checksumOf_add,
      add_sub_cancel_left]
  cases tog with
  | false => exact .inr hadd
  | true => exact .inl hadd

theorem checksumOf_transmitted_ne {o : Byte} (h : o.getLsbD 3 = false) (tog : Bool) (ps : List Byte) :
    checksumOf (transmitted tog o) ps ≠ checksumOf (transmitted (!tog) o) ps := by
  intro heq
  have hsub := checksumOf_transmitted_sub h tog ps
  rw [heq, sub_self, or_self] at hsub
  exact absurd hsub (by decide)

theorem transmitted_ne_transmitted_not {o : Byte} (h : o.getLsbD 3 = false) (tog : Bool) :
    transmitted tog o ≠ transmitted (!tog) o :=
  fun heq => checksumOf_transmitted_ne h tog [] (congrArg (checksumOf · []) heq)

/-- Settles O11: the two frames have the transmitted opcodes of the two toggle values and the same parameters. -/
theorem consecutiveEncodesAlternate : Obligations.ConsecutiveEncodesAlternate := by
  intro o ps s hs
  obtain ⟨t, hall, htoggle, hdelivered⟩ := execAll_encode_encode hs o ps
  have hlen : ∀ tog, (encodedFrame tog o ps).length = 7 + 2 * ps.length := fun tog => length_frameLayout _ ps
  refine ⟨t, encodedFrame s.toggle o ps, encodedFrame (!s.toggle) o ps, hall, htoggle, hdelivered, hlen _, hlen _,
    fun hset => ?same, fun hclear => ⟨fun i hi => ?places, fun i hi => ?bit, ?checksum⟩⟩
  case same =>
    have hbit : o.getLsbD 3 = true := by simpa using mt (and_toggleMask_eq_zero_iff o).2 hset
    rw [encodedFrame, encodedFrame, transmitted_of_bit_three hbit, transmitted_of_bit_three hbit]
  all_goals have hbit := (and_toggleMask_eq_zero_iff o).1 hclear
  case places =>
    rw [hlen] at hi ⊢
    exact frameLayout_ne_iff (transmitted_ne_transmitted_not hbit _) (checksumOf_transmitted_ne hbit _ ps) hi
  case bit =>
    have hxor := transmitted_xor_transmitted_not hbit s.toggle
    rcases hi with rfl | rfl
    · exact hxor
    · exact (cpl_xor_cpl _ _).trans hxor
  case checksum =>
    have hsum : ∀ tog, (encodedFrame tog o ps).getD ((encodedFrame s.toggle o ps).length - 2) 0 =
        checksumOf (transmitted tog o) ps := fun tog => by
      rw [(hlen s.toggle).trans (hlen tog).symm]
      exact getD_frameLayout_checksum _ ps
    rw [hsum, hsum]
    exact checksumOf_transmitted_sub hbit s.toggle ps

end Sys2Proof.Machine
end

section
/-! The toggle at a clock edge (R115 step 2, R148): of all the work at the ports only that of a header beat writes it,
and the transaction it opens is still in flight after the edge. -/

namespace Sys2Proof.Machine

/-! ## The work after the header beat -/

/-- The end of a request keeps the toggle and the transaction. -/
theorem finishIfLast_keeps {last : Bool} {s t : State} (hphase : s.pgPhase = false) (h : finishIfLast last s = .ok t) :
    t.toggle = s.toggle ∧ t.busy = s.busy ∧ t.opLat = s.opLat := by
  cases last with
  | false =>
    cases h
    exact ⟨rfl, rfl, rfl⟩
  | true =>
    obtain ⟨r, st, a, p, hw, -, -⟩ := finishWork_ok hphase
    rw [finishIfLast, if_pos rfl, hw] at h
    cases h
    exact ⟨rfl, rfl, rfl⟩

theorem payloadWork_keeps_toggle {b : ReqBeat} {s t : State} (hphase : s.pgPhase = false)
    (h : payloadWork b s = .ok t) : t.toggle = s.toggle ∧ t.pgPhase = false := by
  rcases payloadWork_ok hphase b with ⟨-, hw⟩ | ⟨-, hw⟩ | ⟨-, -, hw⟩ <;> cases hw.symm.trans h <;> exact ⟨rfl, hphase⟩

/-! ## The header beat -/

/-- The header beat of a catalog operation flips the toggle exactly where the lookup gives a Command (R148). -/
theorem openAction_toggle {a : Action} {m : Byte} {s t : State} (hphase : s.pgPhase = false)
    (h : openAction a m s = .ok t) : t.toggle = (s.toggle ^^ (catalog s.cfg a m).isOk) := by
  rcases openAction_ok hphase a m with ⟨c, hcat, hw⟩ | ⟨ha, hm, hw⟩
  · cases hw.symm.trans h
    rw [hcat]
    exact (Bool.xor_true _).symm
  · cases hw.symm.trans h
    rw [catalog_motor_isOk ha, decide_eq_false (Nat.not_lt.2 hm), Bool.xor_false]

/-- The header beat flips the toggle exactly for an operation that flips it (R11). -/
theorem headerWork_toggle {b : ReqBeat} {s t : State} (hphase : s.pgPhase = false) (h : headerWork b s = .ok t) :
    t.toggle = (s.toggle ^^ flipsToggle s.cfg (readRequest (OpSel.ofCode b.op) b.data [])) := by
  rw [headerWork] at h
  cases ho : OpSel.ofCode b.op <;> simp only [ho] at h <;> simp only [readRequest, flipsToggle]
  case encode =>
    cases (startFrame_ok hphase b.data).symm.trans h
    exact (Bool.xor_true _).symm
  case ping | stopAll | beep => exact openAction_toggle hphase h
  case motorOn => rw [openAction_toggle hphase h, catalog_motor_isOk (.inl rfl)]
  case motorOff => rw [openAction_toggle hphase h, catalog_motor_isOk (.inr rfl)]
  case decode | validate =>
    cases h
    exact (Bool.xor_false _).symm

/-! ## A request beat that moves -/

theorem State.Inv.pgPhase {s : State} (hs : s.Inv) : s.pgPhase = false := by
  obtain ⟨-, hphase, -⟩ := hs
  exact hphase

theorem takeBeat_toggle {b : ReqBeat} {s t : State} (hs : s.Inv) (h : takeBeat b s = .next t) :
    t.toggle = (s.toggle ^^ (!s.busy && flipsToggle s.cfg (readRequest (OpSel.ofCode b.op) b.data []))) := by
  rcases takeBeat_inv h with ⟨hbusy, -, u, hu, hf⟩ | ⟨hbusy, u, hu, hf⟩
  · obtain ⟨htoggle, hphase⟩ := payloadWork_keeps_toggle hs.pgPhase hu
    obtain ⟨hfinish, -⟩ := finishIfLast_keeps hphase hf
    rw [hfinish, htoggle, hbusy, Bool.not_true, Bool.false_and, Bool.xor_false]
  · have hphase := (headerWork_taking (hs.idle hbusy) hu).pgPhase
    obtain ⟨hfinish, -⟩ := finishIfLast_keeps hphase hf
    rw [hfinish, hbusy, Bool.not_false, Bool.true_and]
    exact headerWork_toggle (s := openTransaction b.op s) hs.pgPhase hu

/-- A header beat opens its transaction (R15). -/
theorem takeBeat_header {b : ReqBeat} {s t : State} (hs : s.Idle) (h : takeBeat b s = .next t) :
    t.busy = true ∧ t.opLat = b.op := by
  rcases takeBeat_inv h with ⟨hbusy, -⟩ | ⟨-, u, hu, hf⟩
  · exact absurd (hbusy.symm.trans hs.not_busy) (by decide)
  · have hu' := headerWork_taking hs hu
    obtain ⟨-, hbusy, hop⟩ := finishIfLast_keeps hu'.pgPhase hf
    obtain ⟨hop', -⟩ := headerWork_opLat (s := openTransaction b.op s) hs.pgPhase hu
    exact ⟨hbusy.trans hu'.busy, hop.trans hop'⟩

/-! ## The edge -/

/-- The moving of a response beat writes neither the toggle nor `op_lat`. -/
theorem giveBeat_keeps (s : State) : (giveBeat s).toggle = s.toggle ∧ (giveBeat s).opLat = s.opLat := by
  rcases giveBeat_cases s with ⟨-, h⟩ | ⟨b, r, -, h⟩ <;> rw [h] <;> exact ⟨rfl, rfl⟩

/-- What moves on the response channel in the cycle of a header is no trailer (R15, log 13). -/
theorem rspOffered_idle_not_last {p : Pins} {s : State} {b : RspBeat} (hs : s.Idle) (h : rspOffered p s = some b) :
    b.last = false := by
  rw [rspOffered, hs.rspOut, List.isEmpty_nil, if_pos rfl] at h
  split at h
  · have hfilter := (Option.filter_eq_some_iff.1 h).2
    simpa [hs.not_busy] using hfilter
  · cases h

/-- So the transaction that the header opens is still in flight after the edge. -/
theorem giveBeat_busy_of_idle {p : Pins} {s u : State} (hs : s.Idle) (hu : requestSide p s = .next u)
    (hmoves : responseMoves p s = true) : (giveBeat u).busy = u.busy := by
  obtain ⟨hrst, -, hoffered⟩ := (responseMoves_iff p s).1 hmoves
  rw [outputs_rsp_of_not_rst hrst] at hoffered
  obtain ⟨b, hb⟩ := Option.isSome_iff_exists.1 hoffered
  obtain ⟨r, hout⟩ := rspOffered_eq_head hu hb
  rw [giveBeat_of_cons hout]
  simp [rspOffered_idle_not_last hs hb]

/-- An edge out of reset leaves the toggle and `op_lat` as its request side does, and `busy` too on an idle block. -/
theorem clockEdge_toggle {p : Pins} {s t : State} (hrst : p.rst = false) (h : clockEdge p s = .next t) :
    ∃ u, requestSide p s = .next u ∧ t.toggle = u.toggle ∧ t.opLat = u.opLat ∧ (s.Idle → t.busy = u.busy) := by
  obtain ⟨u, hu, rfl⟩ := clockEdge_of_not_rst hrst h
  refine ⟨u, hu, ?_⟩
  cases hmoves : responseMoves p s with
  | false => exact ⟨rfl, rfl, fun _ => rfl⟩
  | true =>
    obtain ⟨htoggle, hop⟩ := giveBeat_keeps u
    exact ⟨htoggle, hop, fun hs => giveBeat_busy_of_idle hs hu hmoves⟩

theorem requestSide_of_moves {p : Pins} {s : State} (h : requestMoves p s = true) :
    requestSide p s = takeBeat p.req s := by
  rw [requestSide, if_pos h]

/-- Settles O51: the request side of the edge writes the toggle at a header beat alone, and the pins show it. -/
theorem toggleFlipsAtTheHeaderBeat : Obligations.ToggleFlipsAtTheHeaderBeat := by
  intro p s t hs hrst h
  obtain ⟨u, hu, htoggle, hop, hbusy⟩ := clockEdge_toggle hrst h
  refine ⟨?toggle, fun hmoves hidle => ?header, fun q => ⟨outputs_toggleQ q s, outputs_toggleQ q t⟩⟩
  case toggle =>
    rw [htoggle]
    cases hmoves : requestMoves p s with
    | false =>
      cases (requestSide_of_not_moves hmoves).symm.trans hu
      simp
    | true =>
      rw [requestSide_of_moves hmoves] at hu
      exact takeBeat_toggle hs hu
  case header =>
    rw [requestSide_of_moves hmoves] at hu
    obtain ⟨hopen, hcode⟩ := takeBeat_header (hs.idle hidle) hu
    exact ⟨(hbusy (hs.idle hidle)).trans hopen, hop.trans hcode⟩

end Sys2Proof.Machine
end

section
/-! DECODE (R120 to R124): a frame of well-formed length is the bytes of one DecodedFrame, and DECODE finds that one.
What DECODE returns, of any frame and of an encoded one, is read off this. -/

namespace Sys2Proof.Machine

/-! ## Pairs laid end to end -/

theorem flattenPairs_eq_flatMap (ps : List (Byte × Byte)) : flattenPairs ps = ps.flatMap fun p => [p.1, p.2] := by
  induction ps with
  | nil => rfl
  | cons p ps ih => rw [flattenPairs, ih]; rfl

theorem flattenPairs_append (ps qs : List (Byte × Byte)) :
    flattenPairs (ps ++ qs) = flattenPairs ps ++ flattenPairs qs := by
  simp only [flattenPairs_eq_flatMap, List.flatMap_append]

@[simp] theorem length_flattenPairs (ps : List (Byte × Byte)) : (flattenPairs ps).length = 2 * ps.length := by
  induction ps with
  | nil => rfl
  | cons p ps ih => simp only [flattenPairs, List.length_cons, ih]; omega

/-- Bytes of even number are pairs laid end to end. -/
theorem exists_flattenPairs : ∀ {bs : List Byte}, bs.length % 2 = 0 → ∃ ps, flattenPairs ps = bs
  | [], _ => ⟨[], rfl⟩
  | [_], h => by simp at h
  | v :: c :: bs, h => by
    obtain ⟨ps, rfl⟩ := exists_flattenPairs (bs := bs) (by simp only [List.length_cons] at h; omega)
    exact ⟨(v, c) :: ps, rfl⟩

/-! ## The fields laid end to end -/

theorem length_bytes (d : DecodedFrame) : d.bytes.length = 7 + 2 * d.parameters.length := by
  simp only [DecodedFrame.bytes, List.length_append, List.length_cons, List.length_nil, length_flattenPairs]
  omega

/-- A frame of well-formed length is the bytes of a DecodedFrame: five bytes, then pairs, of which the last is the
checksum's (R66). -/
theorem exists_bytes_eq {f : List Byte} {n : Nat} (hlen : f.length = 7 + 2 * n) : ∃ d : DecodedFrame, d.bytes = f := by
  obtain ⟨hd, tl, rfl, hhd⟩ : ∃ hd tl, f = hd ++ tl ∧ hd.length = 5 :=
    ⟨f.take 5, f.drop 5, (List.take_append_drop 5 f).symm, by rw [List.length_take]; omega⟩
  rw [List.length_append] at hlen
  obtain ⟨qs, rfl⟩ := exists_flattenPairs (bs := tl) (by omega)
  rw [length_flattenPairs] at hlen
  obtain rfl | ⟨ps, ⟨c, cc⟩, rfl⟩ := qs.eq_nil_or_concat'
  · simp only [List.length_nil] at hlen
    omega
  · match hd, hhd with
    | [p0, p1, p2, o, oc], _ =>
      refine ⟨⟨(p0, p1, p2), o, oc, ps, c, cc⟩, ?_⟩
      rw [flattenPairs_append, ← List.append_assoc]
      rfl

/-! ## Reading the fields -/

theorem readByte_append_length (pre : List Byte) (b : Byte) (post : List Byte) :
    readByte (pre ++ b :: post) pre.length = .ok b := by
  simp [readByte]

/-- Pairs read from where they start in the frame. -/
theorem readPairs_append_flattenPairs (pre : List Byte) (ps : List (Byte × Byte)) (post : List Byte) :
    readPairs (pre ++ (flattenPairs ps ++ post)) pre.length ps.length = .ok ps := by
  induction ps generalizing pre with
  | nil => rfl
  | cons p ps ih =>
    have hvalue := readByte_append_length pre p.1 (p.2 :: flattenPairs ps ++ post)
    have hcomplement := readByte_append_length (pre ++ [p.1]) p.2 (flattenPairs ps ++ post)
    have hrest := ih (pre ++ [p.1, p.2])
    simp only [List.append_assoc, List.cons_append, List.nil_append, List.length_append, List.length_cons,
      List.length_nil] at hvalue hcomplement hrest
    simp only [flattenPairs, List.cons_append, List.length_cons, readPairs, hvalue, hcomplement, hrest, ok_bind,
      pure_eq_ok]

theorem readByte_bytes_checksum (d : DecodedFrame) : readByte d.bytes (d.bytes.length - 2) = .ok d.checksum := by
  have hindex : d.bytes.length - 2 = 5 + (flattenPairs d.parameters).length := by
    rw [length_bytes, length_flattenPairs]
    omega
  rw [hindex, Nat.add_comm]
  exact readByte_append_length
    (d.preamble.1 :: d.preamble.2.1 :: d.preamble.2.2 :: d.opcode :: d.opcodeComplement :: flattenPairs d.parameters)
    d.checksum [d.checksumComplement]

theorem readByte_bytes_checksumComplement (d : DecodedFrame) :
    readByte d.bytes (d.bytes.length - 1) = .ok d.checksumComplement := by
  rw [readByte, ← List.getLast?_eq_getElem?, DecodedFrame.bytes, List.getLast?_append]
  rfl

/-- DECODE of the fields laid end to end finds the fields (R120, R124). -/
theorem decodeFrame_bytes (d : DecodedFrame) : decodeFrame d.bytes = .ok (.ok d) := by
  have hpairs : readPairs d.bytes 5 d.parameters.length = .ok d.parameters :=
    readPairs_append_flattenPairs [d.preamble.1, d.preamble.2.1, d.preamble.2.2, d.opcode, d.opcodeComplement]
      d.parameters [d.checksum, d.checksumComplement]
  rw [decodeFrame, checkLen_eq_some.2 (length_bytes d)]
  simp only [hpairs, readByte_bytes_checksum, readByte_bytes_checksumComplement, ok_bind]
  rfl

/-- A frame that DECODE takes is the bytes of the DecodedFrame it returns. -/
theorem bytes_eq_of_decodeFrame {f : List Byte} {d : DecodedFrame} (h : decodeFrame f = .ok (.ok d)) :
    d.bytes = f := by
  obtain ⟨-, hmalformed⟩ | ⟨n, -, hlen, -⟩ := decodeFrame_total f
  · cases hmalformed.symm.trans h
  · obtain ⟨d', rfl⟩ := exists_bytes_eq (checkLen_eq_some.1 hlen)
    cases (decodeFrame_bytes d').symm.trans h
    rfl

/-- Settles O23: the frame is the bytes of the DecodedFrame that DECODE returns, so it can be had back from it. -/
theorem decodeLosesNothing : Obligations.DecodeLosesNothing := by
  refine ⟨fun f hlen => ?_, fun f g d hf hg => (bytes_eq_of_decodeFrame hf).symm.trans (bytes_eq_of_decodeFrame hg)⟩
  obtain ⟨n, hn⟩ := Option.ne_none_iff_exists'.1 hlen
  obtain ⟨d, rfl⟩ := exists_bytes_eq (checkLen_eq_some.1 hn)
  refine ⟨d, decodeFrame_bytes d, ?_⟩
  rw [← flattenPairs_eq_flatMap]
  rfl

/-- Settles O24: an encoded frame is, by its layout (R62), the bytes of the DecodedFrame that R123 says. -/
theorem decodeUndoesEncode : Obligations.DecodeUndoesEncode := by
  intro tog o ps op c
  have hop : transmitted tog o = op := by
    cases tog with
    | false => exact BitVec.or_zero.symm
    | true => rfl
  rw [encodedFrame, hop]
  exact decodeFrame_bytes ⟨(0x55#8, 0xFF#8, 0x00#8), op, cpl op, ps.map fun p => (p, cpl p), c, cpl c⟩

/-! ## The response of DECODE -/

theorem tagFrom_eq_range (len i : Nat) (f : List Byte) :
    tagFrom len i f = (List.range f.length).map fun k => RspBeat.dataBeat (f.getD k 0) (classify (k + i) len) := by
  induction f generalizing i with
  | nil => rfl
  | cons b f ih =>
    rw [tagFrom, ih, List.length_cons, List.range_succ_eq_map, List.map_cons, List.map_map, Nat.zero_add]
    congr 2
    funext k
    rw [Function.comp_apply, Nat.succ_add_eq_add_succ]
    rfl

/-- A whole frame tagged by index (R122). -/
theorem taggedFrame_eq_range (f : List Byte) :
    taggedFrame f = (List.range f.length).map fun k => RspBeat.dataBeat (f.getD k 0) (classify k f.length) :=
  tagFrom_eq_range f.length 0 f

/-- An answer of the frame decoder: the toggle and `pg_hold` are not written. -/
def Answer.ofFrame (acc : Byte → Byte) (data : List RspBeat) (status : BitVec 3) : Answer :=
  ⟨false, acc, id, data, status⟩

theorem complete_ofFrame (acc : Byte → Byte) (data : List RspBeat) (status : BitVec 3) (op : OpSel) (s : State) :
    (Answer.ofFrame acc data status).complete op s = { s with
      acc := acc s.acc, opLat := op.code, delivered := s.delivered ++ data ++ [RspBeat.trailer status] } := by
  simp [Answer.ofFrame, Answer.complete, Answer.response]

/-- Work that queues an answer hands it over as a whole transaction. -/
theorem transact_of_queue {body : State → Except Fault State} {A : Answer} {op : OpSel} {s : State} (hs : s.Idle)
    (h : body (openTransaction op.code s) = .ok (A.queue (openTransaction op.code s))) :
    transact op body s = .next (A.complete op s) := by
  rw [transact_ok h, deliverAll_queue_openTransaction A op hs]

/-- Of a frame of well-formed length DECODE answers the frame itself, tagged (R122). -/
theorem runDecode_bytes (d : DecodedFrame) (s : State) :
    runDecode d.bytes s = .ok ((Answer.ofFrame id (taggedFrame d.bytes) statusOk).queue s) := by
  simp [runDecode, decodeFrame_bytes, Answer.ofFrame, Answer.queue, Answer.response, emitAll, sendTrailer]

/-- Settles O20: the bytes that come back are the frame's, and their tags go by the index. -/
theorem decodeReturnsTaggedFrame : Obligations.DecodeReturnsTaggedFrame := by
  intro f n s hs hlen
  obtain ⟨d, rfl⟩ := exists_bytes_eq hlen
  show transact .decode (runDecode d.bytes) s = _
  rw [transact_of_queue hs (runDecode_bytes d _), complete_ofFrame, taggedFrame_eq_range]
  rfl

end Sys2Proof.Machine
end

section
/-! VALIDATE (R125 to R129): its verdict on a frame of well-formed length, by the pairs and the checksum. What the rules
say of encoded frames, of single bits and of the preamble is then about the frames alone. -/

namespace Sys2Proof.Machine

/-! ## The verdict -/

/-- The pairs of a frame of well-formed length, counted: the `k`-th from index 3 on stands at `3 + 2k` and `4 + 2k`. -/
theorem brokenPair_iff {f : List Byte} {n : Nat} (hlen : f.length = 7 + 2 * n) :
    brokenPair f ↔ ∃ k < n + 2, f.getD (4 + 2 * k) 0 ≠ cpl (f.getD (3 + 2 * k) 0) := by
  have hpair : ∀ {i : Nat}, i + 1 < f.length →
      (f[i + 1]? = (f[i]?).map cpl ↔ f.getD (i + 1) 0 = cpl (f.getD i 0)) := by
    intro i hi
    have hi' : i < f.length := by omega
    rw [List.getElem?_eq_getElem hi, List.getElem?_eq_getElem hi', List.getD_eq_getElem _ _ hi,
      List.getD_eq_getElem _ _ hi', Option.map_some, Option.some_inj]
  constructor
  · rintro ⟨i, h3, hodd, hi, hne⟩
    obtain ⟨k, rfl⟩ : ∃ k, i = 3 + 2 * k := ⟨(i - 3) / 2, by omega⟩
    rw [Ne, hpair hi, Nat.add_right_comm] at hne
    exact ⟨k, by omega, hne⟩
  · rintro ⟨k, hk, hne⟩
    rw [show 4 + 2 * k = 3 + 2 * k + 1 by omega, Ne, ← hpair (by omega)] at hne
    exact ⟨3 + 2 * k, by omega, by omega, by omega, hne⟩

/-- The pairs from index 3 on are read without a fault, and the check over them finds the broken ones (R64, R125). -/
theorem exists_readPairs {f : List Byte} {n : Nat} (hlen : f.length = 7 + 2 * n) :
    ∃ pairs, readPairs f preLen (n + 2) = .ok pairs ∧ (somePairBad pairs = true ↔ brokenPair f) := by
  refine ⟨_, readPairs_eq_range (by simp only [preLen]; omega), ?_⟩
  rw [brokenPair_iff hlen]
  simp [somePairBad, preLen]

/-- A broken pair is reported whatever the checksum, and the accumulator is not touched (R126). -/
theorem validateFrame_of_brokenPair {f : List Byte} {n : Nat} (hlen : f.length = 7 + 2 * n) (hbad : brokenPair f)
    (s : State) : validateFrame f s = .ok (.complementMismatch, s) := by
  obtain ⟨pairs, hread, hpairs⟩ := exists_readPairs hlen
  simp only [validateFrame, checkLen_eq_some.2 hlen, hread, ok_bind, if_pos (hpairs.2 hbad), pure_eq_ok]

/-- With good pairs the accumulator gets the due checksum, and the frame's own decides (R126). -/
theorem validateFrame_of_not_brokenPair {f : List Byte} {n : Nat} (hlen : f.length = 7 + 2 * n)
    (hgood : ¬ brokenPair f) (s : State) :
    validateFrame f s = .ok (if f.getD (f.length - 2) 0 = dueChecksum f n then .valid else .checksumMismatch,
      { s with acc := dueChecksum f n }) := by
  obtain ⟨pairs, hread, hpairs⟩ := exists_readPairs hlen
  have hfirst : readByte f preLen = .ok (f.getD 3 0) := readByte_getD (i := 3) (by omega)
  have hsum : addValues f 5 n (caAdd (f.getD 3 0) (caClear s)) = .ok { s with acc := dueChecksum f n } := by
    rw [addValues_ok f 5 n _ (by omega), foldl_add_eq_checksumOf, caAdd_acc, caClear_acc, BitVec.zero_add]
    rfl
  have hlast : readByte f (f.length - 2) = .ok (f.getD (f.length - 2) 0) := readByte_getD (by omega)
  simp only [validateFrame, checkLen_eq_some.2 hlen, hread, ok_bind, if_neg (mt hpairs.1 hgood), hfirst, hsum, hlast,
    pure_eq_ok]
  split
  next hne =>
    have hdiffers : f.getD (f.length - 2) 0 ≠ dueChecksum f n := bne_iff_ne.1 hne
    rw [if_neg hdiffers]
  next heq =>
    have hsame : f.getD (f.length - 2) 0 = dueChecksum f n := not_not.1 (mt bne_iff_ne.2 heq)
    rw [if_pos hsame]

/-! ## The response of VALIDATE -/

/-- The status of the trailer that a verdict gives (R77, R125). -/
def ValidationResult.status (r : ValidationResult) : BitVec 3 := (r.toError.map ErrorKind.code).getD statusOk

/-- VALIDATE on an idle block answers its verdict's status, and writes `acc` and `op_lat` alone (R128). -/
theorem exec_validate {f : List Byte} {s : State} (hs : s.Idle) {r : ValidationResult} {acc : Byte → Byte}
    (hverdict : ∀ u, validateFrame f u = .ok (r, { u with acc := acc u.acc })) :
    exec (.validate f) s = .next { s with
      acc := acc s.acc, opLat := 7#3, delivered := s.delivered ++ [RspBeat.trailer r.status] } := by
  have hrun : ∀ u, runValidate f u = .ok ((Answer.ofFrame acc [] r.status).queue u) := by
    intro u
    simp only [runValidate, hverdict, ok_bind, pure_eq_ok, ValidationResult.status]
    cases r.toError with
    | none => simp [Answer.ofFrame, Answer.queue, Answer.response, sendTrailer]
    | some e => simp [Answer.ofFrame, Answer.queue, Answer.response, raiseError, sendTrailer]
  show transact .validate (runValidate f) s = _
  rw [transact_of_queue hs (hrun _), complete_ofFrame, List.append_nil]
  rfl

/-- Settles O26, one clause for each verdict. -/
theorem validateVerdicts : Obligations.ValidateVerdicts := by
  intro f n s hs hlen
  refine ⟨fun hbad => ?broken, fun hgood hsum => ?mismatch, fun hgood hsum => ?valid⟩
  case broken => exact exec_validate hs (acc := id) (validateFrame_of_brokenPair hlen hbad)
  all_goals have hverdict := validateFrame_of_not_brokenPair hlen hgood
  case mismatch =>
    rw [if_neg hsum] at hverdict
    exact exec_validate hs (acc := fun _ => _) hverdict
  case valid =>
    rw [if_pos hsum] at hverdict
    exact exec_validate hs (acc := fun _ => _) hverdict

/-! ## Encoded frames -/

theorem dueChecksum_frameLayout (t : Byte) (ps : List Byte) :
    dueChecksum (frameLayout t ps) ps.length = checksumOf t ps := by
  have hparams : (List.range ps.length).map (fun k => (frameLayout t ps).getD (5 + 2 * k) 0) = ps := by
    refine List.ext_getElem (by simp) fun k _ hk => ?_
    rw [List.getElem_map, List.getElem_range, List.getD_eq_getElem?_getD, getElem?_frameLayout_param t hk,
      List.getElem?_eq_getElem hk, Option.getD_some]
  rw [dueChecksum, hparams]
  rfl

theorem not_brokenPair_frameLayout (t : Byte) (ps : List Byte) : ¬ brokenPair (frameLayout t ps) :=
  fun ⟨_, h3, hodd, _, hne⟩ => hne (complement_frameLayout t ps h3 hodd)

/-- Settles O27: an encoded frame has good pairs (R64) and the due checksum (R65) by its layout. -/
theorem encodedFramesAreValid : Obligations.EncodedFramesAreValid := by
  intro tog o ps s hs
  obtain ⟨-, -, hvalid⟩ := validateVerdicts (encodedFrame tog o ps) ps.length s hs (length_frameLayout _ ps)
  have hdue := dueChecksum_frameLayout (transmitted tog o) ps
  rw [← hdue]
  exact hvalid (not_brokenPair_frameLayout _ ps) ((getD_frameLayout_checksum _ ps).trans hdue.symm)

/-! ## Changed bytes -/

/-- A Valid frame has a well-formed length and no broken pair. -/
theorem validateFrame_valid {f : List Byte} {s t : State} (h : validateFrame f s = .ok (.valid, t)) :
    (∃ n, f.length = 7 + 2 * n) ∧ ¬ brokenPair f := by
  cases hc : checkLen f.length with
  | none =>
    simp only [validateFrame, hc] at h
    cases h
  | some n =>
    have hlen := checkLen_eq_some.1 hc
    refine ⟨⟨n, hlen⟩, fun hbad => ?_⟩
    cases (validateFrame_of_brokenPair hlen hbad s).symm.trans h

/-- In a frame without a broken pair each byte of a pair settles the other, so changing one of them breaks the pair. -/
theorem brokenPair_set {f : List Byte} {n : Nat} (hlen : f.length = 7 + 2 * n) (hgood : ¬ brokenPair f) {i : Nat}
    (h3 : 3 ≤ i) (hi : i < f.length) {b : Byte} (hb : b ≠ f.getD i 0) : brokenPair (f.set i b) := by
  have hpair : ∀ k < n + 2, f.getD (4 + 2 * k) 0 = cpl (f.getD (3 + 2 * k) 0) := by
    intro k hk
    by_contra hne
    exact hgood ((brokenPair_iff hlen).2 ⟨k, hk, hne⟩)
  have hset : (f.set i b).getD i 0 = b := by simp [hi]
  have hother : ∀ {j}, j ≠ i → (f.set i b).getD j 0 = f.getD j 0 := fun hj => by simp [List.getElem?_set_ne hj.symm]
  rw [brokenPair_iff (List.length_set.trans hlen)]
  obtain hpre | ⟨k, rfl | rfl⟩ := preamble_or_value_or_complement i
  · omega
  · refine ⟨k, by omega, ?_⟩
    rw [hset, hother (by omega), hpair k (by omega), Ne, cpl_inj]
    exact hb.symm
  · refine ⟨k, by omega, ?_⟩
    rw [hset, hother (by omega), ← hpair k (by omega)]
    exact hb

theorem xor_ofNat_two_pow_ne (b : Byte) {j : Nat} (hj : j < 8) : b ^^^ BitVec.ofNat 8 (2 ^ j) ≠ b := by
  rw [Ne, xor_left_eq_self_iff, BitVec.toNat_eq, BitVec.toNat_ofNat,
    Nat.mod_eq_of_lt (Nat.pow_lt_pow_right (by decide) hj)]
  exact (Nat.two_pow_pos j).ne'

/-- Settles O28: a Valid frame has good pairs, and the byte with the bit changed is another one and breaks its pair. -/
theorem singleBitFaultsAreDetected : Obligations.SingleBitFaultsAreDetected := by
  intro f s t i j hvalid h3 hi hj
  obtain ⟨⟨n, hlen⟩, hgood⟩ := validateFrame_valid hvalid
  exact validateFrame_of_brokenPair (List.length_set.trans hlen)
    (brokenPair_set hlen hgood h3 hi (xor_ofNat_two_pow_ne _ hj)) s

/-! ## The preamble -/

section
variable {f g : List Byte}

/-- Byte lists that agree from index 3 on read the same there. -/
theorem readByte_congr (h : f.drop preLen = g.drop preLen) {i : Nat} (hi : preLen ≤ i) :
    readByte f i = readByte g i := by
  obtain ⟨k, rfl⟩ := Nat.exists_eq_add_of_le hi
  rw [readByte, readByte, ← List.getElem?_drop, ← List.getElem?_drop, h]

theorem readPairs_congr (h : f.drop preLen = g.drop preLen) {i : Nat} (hi : preLen ≤ i) (n : Nat) :
    readPairs f i n = readPairs g i n := by
  induction n generalizing i with
  | zero => rfl
  | succ n ih => rw [readPairs, readPairs, readByte_congr h hi, readByte_congr h (by omega), ih (by omega)]

theorem addValues_congr (h : f.drop preLen = g.drop preLen) {i : Nat} (hi : preLen ≤ i) (n : Nat) (s : State) :
    addValues f i n s = addValues g i n s := by
  induction n generalizing i s with
  | zero => rfl
  | succ n ih => simp only [addValues, readByte_congr h hi, ih (show preLen ≤ i + 2 by omega)]

/-- VALIDATE reads nothing below index 3 (R127). -/
theorem validateFrame_congr (hlen : f.length = g.length) (h : f.drop preLen = g.drop preLen) (s : State) :
    validateFrame f s = validateFrame g s := by
  rw [validateFrame, validateFrame, hlen]
  cases hc : checkLen g.length with
  | none => rfl
  | some n =>
    have hn := checkLen_eq_some.1 hc
    have hsum : preLen ≤ 5 := by decide
    have hlast : preLen ≤ g.length - 2 := by simp only [preLen]; omega
    simp only [readPairs_congr h le_rfl, readByte_congr h le_rfl, addValues_congr h hsum, readByte_congr h hlast]

end

/-- Settles O29: R127's example is, from index 3 on, an encoded frame. -/
theorem validateIgnoresPreamble : Obligations.ValidateIgnoresPreamble := by
  have hsame : ∀ (a b c a' b' c' : Byte) (r : List Byte) (s : State),
      exec (.validate (a :: b :: c :: r)) s = exec (.validate (a' :: b' :: c' :: r)) s := by
    intro a b c a' b' c' r s
    show transact _ (runValidate _) s = transact _ (runValidate _) s
    simp only [transact, runValidate, validateFrame_congr (f := a :: b :: c :: r) (g := a' :: b' :: c' :: r) rfl rfl]
  refine ⟨hsame, fun s hs => ?_⟩
  rw [hsame _ _ _ preamble0 preamble1 preamble2]
  exact encodedFramesAreValid false 0x10#8 [] s hs

end Sys2Proof.Machine
end

section
/-! The responses of the catalog operations (R141 to R147): a Command looked up is answered with the frame of the
closed formula (R110), here read off byte by byte, and a rejected motor index with its error's trailer. -/

namespace Sys2Proof.Machine

/-! ## The next state of a catalog operation -/

/-- A catalog operation with a successful lookup answers the encoded frame of the Command looked up, and writes the
registers of ENCODE (R140, R110). -/
theorem transact_runAction_of_frame {s : State} (hs : s.Idle) {a : Action} {m : Byte} {cmd : Command}
    (hcat : catalog s.cfg a m = .ok cmd) (op : OpSel) {c : Byte} {f : List Byte}
    (hsum : checksumOf (transmitted s.toggle cmd.opcode) cmd.params = c)
    (hframe : encodedFrame s.toggle cmd.opcode cmd.params = f) :
    transact op (runAction a m) s = .next { s with
      toggle := !s.toggle
      acc := c
      pgHold := c
      opLat := op.code
      delivered := s.delivered ++ frameResponse f } := by
  obtain ⟨t, hencode, hrun⟩ := transact_runAction_of_command hs hcat op
  rw [encodePrimitivesGiveTheFormula cmd.opcode cmd.params s hs, hsum, hframe] at hencode
  cases hencode
  exact hrun

/-! ## Commands without a parameter, and BEEP -/

/-- Settles O13: for either toggle value the formula evaluates to the frame of R141. -/
theorem pingFrames : Obligations.PingFrames := by
  refine ⟨fun _ => decodeRequest_of_whole rfl, fun s hs =>
    transact_runAction_of_frame (a := .ping) hs rfl .ping ?checksum ?frame⟩
  all_goals cases s.toggle <;> rfl

/-- Settles O14: for either toggle value the formula evaluates to the frame of R142. -/
theorem stopAllFrames : Obligations.StopAllFrames := by
  refine ⟨fun _ => decodeRequest_of_whole rfl, fun s hs =>
    transact_runAction_of_frame (a := .stopAll) hs rfl .stopAll ?checksum ?frame⟩
  all_goals cases s.toggle <;> rfl

/-- Settles O15: for either toggle value the formula evaluates to the frame of R143. -/
theorem beepFrames : Obligations.BeepFrames := by
  refine ⟨fun _ => decodeRequest_of_whole rfl, fun s hs =>
    transact_runAction_of_frame (a := .beep) hs rfl .beep ?checksum ?frame⟩
  all_goals cases s.toggle <;> rfl

/-! ## Motor operations -/

/-- With one parameter the checksum is the 8-bit sum of it and the transmitted opcode (R65). -/
theorem checksumOf_singleton (t p : Byte) : checksumOf t [p] = t + p := (foldl_add_eq_checksumOf t [p]).symm

/-- The nine bytes of a frame with one parameter (R62). -/
theorem frameLayout_singleton (t p : Byte) :
    frameLayout t [p] = [0x55#8, 0xFF#8, 0x00#8, t, cpl t, p, cpl p, t + p, cpl (t + p)] := by
  rw [frameLayout, checksumOf_singleton]
  rfl

theorem transmitted_opMotor (tog : Bool) : transmitted tog opMotor = if tog then 0x29#8 else 0x21#8 := by
  cases tog <;> rfl

/-- The motor parameter by the formula of R144 and R145: the bit of the motor is `2^m`. -/
theorem motorParam_eq (flag m : Byte) : motorParam flag m = flag ||| BitVec.ofNat 8 (2 ^ m.toNat) := by
  have hbit : 1#8 <<< m.toNat = BitVec.ofNat 8 (2 ^ m.toNat) := BitVec.eq_of_toNat_eq (BitVec.toNat_twoPow 8 m.toNat)
  rw [motorParam, hbit]

/-- A motor operation whose lookup succeeds answers the nine bytes of its opcode and its parameter, whichever flag it
has (R144, R145). -/
theorem transact_runAction_of_motor {s : State} (hs : s.Idle) {a : Action} {flag m : Byte}
    (hcat : catalog s.cfg a m = .ok ⟨opMotor, [motorParam flag m]⟩) (op : OpSel) {t p : Byte}
    (ht : t = if s.toggle then 0x29#8 else 0x21#8) (hp : p = flag ||| BitVec.ofNat 8 (2 ^ m.toNat)) :
    transact op (runAction a m) s = .next { s with
      toggle := !s.toggle
      acc := t + p
      pgHold := t + p
      opLat := op.code
      delivered := s.delivered ++ frameResponse
        [0x55#8, 0xFF#8, 0x00#8, t, cpl t, p, cpl p, t + p, cpl (t + p)] } := by
  rw [← transmitted_opMotor] at ht
  rw [← motorParam_eq] at hp
  subst ht hp
  exact transact_runAction_of_frame hs hcat op (checksumOf_singleton _ _) (frameLayout_singleton _ _)

/-- Settles O16: the lookup gives the Command with the flag of MOTOR_ON. -/
theorem motorOnFrames : Obligations.MotorOnFrames := by
  intro m s hs hm op p
  obtain ⟨hon, -⟩ := catalog_motor_of_valid hm
  exact transact_runAction_of_motor hs hon .motorOn rfl rfl

/-- Settles O17: the lookup gives the Command with the flag of MOTOR_OFF. -/
theorem motorOffFrames : Obligations.MotorOffFrames := by
  intro m s hs hm op p
  obtain ⟨-, hoff⟩ := catalog_motor_of_valid hm
  exact transact_runAction_of_motor hs hoff .motorOff rfl rfl

/-- Settles O18: the lookup of either operation raises InvalidMotorIndex. -/
theorem rejectedMotorIndexChangesNothing : Obligations.RejectedMotorIndexChangesNothing := by
  intro m s hs hm
  obtain ⟨hon, hoff⟩ := catalog_motor_of_invalid hm
  exact ⟨transact_runAction_of_error hs hon .motorOn, transact_runAction_of_error hs hoff .motorOff⟩

end Sys2Proof.Machine
end

section
/-! Errors and waiting (R161, R165, R176): a frame of malformed length is turned away by its length, an operation that
ends in an error sends its trailer alone, and a host that moves no beat lets only time pass. -/

namespace Sys2Proof.Machine

/-! ## Malformed lengths -/

/-- DECODE of a frame of malformed length raises MalformedFrame (R120, R161). -/
theorem runDecode_malformed {f : List Byte} (hlen : checkLen f.length = none) (s : State) :
    runDecode f s = .ok ((Answer.ofError .malformedFrame).queue s) := by
  rw [← raiseError_eq_queue, runDecode, decodeFrame, hlen]
  rfl

/-- VALIDATE of a frame of malformed length looks at nothing else (R126). -/
theorem validateFrame_malformed {f : List Byte} (hlen : checkLen f.length = none) (s : State) :
    validateFrame f s = .ok (.malformedFrame, s) := by
  rw [validateFrame, hlen]

/-- Settles O21: both operations begin with the length test. -/
theorem malformedLengthIsReported : Obligations.MalformedLengthIsReported := by
  intro f s hs hbad
  have hlen : checkLen f.length = none := checkLen_eq_none.2 hbad
  refine ⟨?decode, exec_validate hs (acc := id) (validateFrame_malformed hlen)⟩
  show transact .decode (runDecode f) s = _
  rw [transact_of_queue hs (runDecode_malformed hlen _), complete_ofError]
  rfl

/-! ## Errors send their trailer alone -/

/-- The answer is OK, or it is an error's: no data beat and the toggle as it was (R165). -/
def Answer.OkOrBare (A : Answer) : Prop := A.status = statusOk ∨ A.data = [] ∧ A.flips = false

theorem okOrBare_ofEncode (tog : Bool) (o : Byte) (ps : List Byte) : (Answer.ofEncode tog o ps).OkOrBare := .inl rfl

theorem okOrBare_ofError (e : ErrorKind) : (Answer.ofError e).OkOrBare := .inr ⟨rfl, rfl⟩

/-- A catalog operation answers as ENCODE or raises the lookup's error (R140, R147). -/
theorem runAction_okOrBare {s : State} (hphase : s.pgPhase = false) (a : Action) (m : Byte) :
    ∃ A : Answer, A.OkOrBare ∧ runAction a m s = .ok (A.queue s) := by
  cases hcat : catalog s.cfg a m with
  | error e => exact ⟨_, okOrBare_ofError e, by rw [runAction, hcat, ← raiseError_eq_queue]⟩
  | ok cmd =>
    obtain ⟨o, ps⟩ := cmd
    exact ⟨_, okOrBare_ofEncode s.toggle o ps, by rw [runAction, hcat]; exact runCommand_eq_queue hphase o ps⟩

/-- DECODE answers the frame with OK, or raises MalformedFrame (R122). -/
theorem runDecode_okOrBare (f : List Byte) (s : State) :
    ∃ A : Answer, A.OkOrBare ∧ runDecode f s = .ok (A.queue s) := by
  cases hlen : checkLen f.length with
  | none => exact ⟨_, okOrBare_ofError _, runDecode_malformed hlen s⟩
  | some n =>
    obtain ⟨d, rfl⟩ := exists_bytes_eq (checkLen_eq_some.1 hlen)
    exact ⟨_, .inl rfl, runDecode_bytes d s⟩

theorem transact_okOrBare {body : State → Except Fault State} {op : OpSel} {s : State} (hs : s.Idle)
    (h : ∃ A : Answer, A.OkOrBare ∧
      body (openTransaction op.code s) = .ok (A.queue (openTransaction op.code s))) :
    ∃ A : Answer, A.OkOrBare ∧ transact op body s = .next (A.complete op s) := by
  obtain ⟨A, hbare, hbody⟩ := h
  exact ⟨A, hbare, transact_of_queue hs hbody⟩

theorem transact_runAction_okOrBare {s : State} (hs : s.Idle) (a : Action) (m : Byte) (op : OpSel) :
    ∃ A : Answer, A.OkOrBare ∧ transact op (runAction a m) s = .next (A.complete op s) := by
  have hphase : (openTransaction op.code s).pgPhase = false := hs.pgPhase
  exact transact_okOrBare hs (runAction_okOrBare hphase a m)

/-- Every operation on an idle block gives an answer that is OK or an error's. -/
theorem exec_okOrBare (i : Instr) {s : State} (hs : s.Idle) :
    ∃ A : Answer, A.OkOrBare ∧ exec i s = .next (A.complete (Laws.selects i) s) := by
  cases i with
  | encode o ps => exact ⟨_, okOrBare_ofEncode _ _ _, exec_encode hs o ps⟩
  | ping => exact transact_runAction_okOrBare hs .ping 0x00#8 .ping
  | stopAll => exact transact_runAction_okOrBare hs .stopAll 0x00#8 .stopAll
  | beep => exact transact_runAction_okOrBare hs .beep 0x00#8 .beep
  | motorOn m => exact transact_runAction_okOrBare hs .motorOn m .motorOn
  | motorOff m => exact transact_runAction_okOrBare hs .motorOff m .motorOff
  | decode f => exact transact_okOrBare hs (runDecode_okOrBare f _)
  | validate f =>
    obtain ⟨r, acc, hverdict⟩ := validateFrame_verdict f
    refine ⟨Answer.ofFrame acc [] r.status, .inr ⟨rfl, rfl⟩, ?_⟩
    rw [exec_validate hs hverdict, complete_ofFrame, List.append_nil]
    rfl

/-- What an answer hands over tells its data beats and its status. -/
theorem Answer.eq_of_complete_delivered {A : Answer} {op : OpSel} {s : State} {r : List RspBeat} {st : BitVec 3}
    (h : (A.complete op s).delivered = s.delivered ++ r ++ [RspBeat.trailer st]) : A.data = r ∧ A.status = st := by
  have hresponse : A.data ++ [RspBeat.trailer A.status] = r ++ [RspBeat.trailer st] :=
    List.append_cancel_left (h.trans (List.append_assoc _ _ _))
  obtain ⟨hdata, htrailer⟩ := List.append_inj' hresponse rfl
  exact ⟨hdata, congrArg RspBeat.status (List.singleton_inj.1 htrailer)⟩

/-- Settles O31: the response is that of an answer, and one that is not OK is bare. -/
theorem errorsLeaveTheToggleAndSendNoData : Obligations.ErrorsLeaveTheToggleAndSendNoData := by
  intro i s t r st hs hexec hdelivered hst
  obtain ⟨A, hbare, hrun⟩ := exec_okOrBare i hs
  cases hrun.symm.trans hexec
  obtain ⟨rfl, rfl⟩ := Answer.eq_of_complete_delivered hdelivered
  obtain ⟨hdata, hflips⟩ := hbare.resolve_left hst
  have htoggle : (s.toggle ^^ A.flips) = s.toggle := by rw [hflips, Bool.xor_false]
  exact ⟨hdata, htoggle⟩

/-! ## Waiting -/

/-- With no input left the block waits (R176). -/
theorem step_of_no_inputs {s : State} (h : s.inputs = []) : step s = .next s := by
  simp only [step, nextStep, h]

theorem requestMoves_of_not_valid {p : Pins} (h : p.reqValid = false) (s : State) : requestMoves p s = false := by
  simp [requestMoves, h]

/-- Settles O45: an edge at which no beat moves only retimes the state. -/
theorem waitingChangesNothing : Obligations.WaitingChangesNothing := by
  refine ⟨fun s => step_of_no_inputs, fun p s hrst hvalid hready => ?_⟩
  exact ⟨_, clockEdge_quiet hrst (requestMoves_of_not_valid hvalid s) (responseMoves_of_not_ready hready s),
    retime_sameButTiming p s s⟩

end Sys2Proof.Machine
end

section
/-! Reset and the hazards between transactions (R192, R201, R202, R205): what two frames back to back answer, the one
request turned away, what a reset edge leaves of a transaction in flight, and when an idle block takes a request. -/

namespace Sys2Proof.Machine

/-! ## Two frames back to back -/

/-- Every frame has an odd length (R110), so two of them together have an even one (R201). -/
theorem even_length_append_encodedFrame (tog tog' : Bool) (o o' : Byte) (ps ps' : List Byte) :
    (encodedFrame tog o ps ++ encodedFrame tog' o' ps').length % 2 = 0 := by
  rw [List.length_append, encodedFrame, encodedFrame, length_frameLayout, length_frameLayout]
  omega

/-- Settles O25: an even length is a malformed one. -/
theorem backToBackFramesAreMalformed : Obligations.BackToBackFramesAreMalformed := by
  intro tog tog' o o' ps ps' s hs
  have heven := even_length_append_encodedFrame tog tog' o o' ps ps'
  obtain ⟨hdecode, hvalidate⟩ := malformedLengthIsReported _ s hs (.inr heven)
  exact ⟨_, _, hdecode, hvalidate, rfl, rfl⟩

/-! ## DECODE beyond the limit -/

/-- On a block that is not busy, a step turns away the request of an operation outside its contract (R202). -/
theorem step_of_not_wf {s : State} {bs : List ReqBeat} {rest : List HostInput} {i : Instr} (hbusy : s.busy = false)
    (hin : s.inputs = bs.map .offer ++ rest) (hdec : decodeRequest bs = .ok i) (hwf : i.wf s.cfg = false) :
    step s = .refused .decodeBeyondMaxLen := by
  have hwhole := wholeRequest_of_decodeRequest hdec
  have hfetch : fetchRequest s.inputs = some (bs, rest) := hin ▸ fetchRequest_of_whole rest hwhole
  cases bs with
  | nil => exact absurd hwhole not_wholeRequest_nil
  | cons b ps =>
    have hcons : s.inputs = .offer b :: (ps.map .offer ++ rest) := hin
    rw [step, nextStep, hfetch, hcons]
    simp [hbusy, runRequest, hdec, hwf]

theorem not_fits_of_lt {c : Config} {lim n : Nat} (hlim : c.maxDecodeLen = some lim) (hn : lim < n) :
    c.fits n = false := by
  simpa [Config.fits, hlim] using hn

/-- Settles O40: a frame beyond the limit breaks the precondition of DECODE (U4). -/
theorem decodeBeyondTheLimitIsRefused : Obligations.DecodeBeyondTheLimitIsRefused := by
  intro s f rest lim hbusy hin hlim hlong
  have hwf : (Instr.decode f).wf s.cfg = false := not_fits_of_lt hlim hlong
  exact step_of_not_wf hbusy hin (decodeRequest_encodeRequest _) hwf

/-! ## A reset edge in a transaction -/

/-- Settles O47: the reset edge leaves an idle block with the host's inputs as they were, and an idle block performs the
request offered next. -/
theorem resetDropsTheTransaction : Obligations.ResetDropsTheTransaction := by
  intro p s hrst
  refine ⟨resetEdge s, clockEdge_of_rst hrst s, resetEdge_idle s, rfl, rfl, rfl, rfl, ?next⟩
  case next =>
    intro bs rest i hin hdec hwf
    exact stepRunsTheDecodedRequest (resetEdge s) bs rest i rfl hin hdec hwf

/-! ## `req_ready` of an idle block -/

/-- An idle block holds `req_ready` low for its free delay only: it shows no response beat that it could wait for
(R47). -/
theorem reqReady_of_idle {s : State} (hs : s.Idle) : reqReady s = (s.reqStall == 0) := by
  simp [reqReady, canTake, showsDue, hs.not_busy, hs.rspOut]

/-- With no request beat moving an idle block has nothing to send. -/
theorem responseMoves_of_idle {p : Pins} {s : State} (hs : s.Idle) (hreq : requestMoves p s = false) :
    responseMoves p s = false := by
  simp [responseMoves, rspOffered, hs.rspOut, hreq]

/-- At an edge at which the host offers nothing, an idle block only lets time pass. -/
theorem clockEdge_of_idle {p : Pins} {s : State} (hs : s.Idle) (hrst : p.rst = false) (hvalid : p.reqValid = false) :
    clockEdge p s = .next (retime p s s) :=
  have hreq := requestMoves_of_not_valid hvalid s
  clockEdge_quiet hrst hreq (responseMoves_of_idle hs hreq)

theorem retime_reqStall_of_eq_succ {s : State} {n : Nat} (h : s.reqStall = n + 1) (p : Pins) (t : State) :
    (retime p s t).reqStall = n := by
  simp [retime, h]

/-- The free delay of `req_ready` is over after as many edges as it has left (R205). -/
theorem runEdges_of_idle {p : Pins} (hrst : p.rst = false) (hvalid : p.reqValid = false) :
    ∀ (n : Nat) {s : State}, s.Idle → s.reqStall = n →
      ∃ t, runEdges (List.replicate n p) s = .next t ∧ t.Idle ∧ t.reqStall = 0
  | 0, s, hs, hn => ⟨s, rfl, hs, hn⟩
  | n + 1, s, hs, hn => by
    have hidle : (retime p s s).Idle := hs
    obtain ⟨t, hrun, ht⟩ := runEdges_of_idle hrst hvalid n hidle (retime_reqStall_of_eq_succ hn p s)
    refine ⟨t, ?_, ht⟩
    rw [List.replicate_succ, runEdges, clockEdge_of_idle hs hrst hvalid]
    exact hrun

/-- Settles O56: the number of edges is the delay that is left. -/
theorem idleBlockBecomesReady : Obligations.IdleBlockBecomesReady := by
  intro p s hs hrst hvalid
  obtain ⟨t, hrun, hidle, hzero⟩ := runEdges_of_idle hrst hvalid s.reqStall hs rfl
  refine ⟨s.reqStall, t, hrun, hidle, ?_⟩
  rw [outputs_reqReady, hrst, reqReady_of_idle hidle, hzero]
  rfl

end Sys2Proof.Machine
end
